-- ==== Sys2Proof/Word.lean ====
section
/-! DEFINITION. The two word types of the block (00_scope.md R10): 32-bit registers and 8-bit memory cells. -/

namespace Sys2Proof

/-- A register value: every register is 32 bits wide (R10, R21). -/
abbrev Word := BitVec 32

/-- A cell of BUF or PAY, a type code, a sender id, a priority (R9, R10). -/
abbrev Byte := BitVec 8

end Sys2Proof
end

