-- ==== Sys2Proof/Syntax.lean ====
section
/-! DEFINITION. The syntax of the block: its commands (the rows of spec/opcode_table.json), the host's accesses, the turns of the interleaving, and the host-program notation. -/

namespace Sys2Proof

/-- The operations, one constructor per row of spec/opcode_table.json (30_encoding.md R81). ENCODE carries the two
fields it uses; the other three ignore PTYPE and SENDER (R85 (c)), so their terms carry nothing. -/
inductive Instr where
  /-- ENCODE: PTYPE = CMD[10:8], SENDER = CMD[23:16] (R100). -/
  | encode (ptype : BitVec 3) (sender : Byte)
  /-- DECODE_HEADER (R130). -/
  | decodeHeader
  /-- DECODE_ACK (R140). -/
  | decodeAck
  /-- RESERVED_OP3: OP = 0b11, which completes with IllegalCommand (R163). -/
  | reservedOp3
  deriving DecidableEq, Repr

/-- The ten registers of 10_state.md R21, in the order of their offsets. -/
inductive Reg where
  | cmd | status | rxlen | txlen | hdr | plen | rsv | clock | errinfo | cap
  deriving DecidableEq, Repr

/-- The three address spaces of 20_memory.md R51, R53, R54; R55: there is no other. -/
inductive Space where
  | reg | buf | pay
  deriving DecidableEq, Repr

/-- The two byte memories of 00_scope.md R12. -/
inductive MemSpace where
  | buf | pay
  deriving DecidableEq, Repr

/-- The six host accesses of 20_memory.md R50. Offsets and indices are natural numbers: the range rules R52 to R54
are checked when the access is made. -/
inductive Access where
  | regRead (off : Nat)
  | regWrite (off : Nat) (w : Word)
  | bufRead (i : Nat)
  | bufWrite (i : Nat) (v : Byte)
  | payRead (i : Nat)
  | payWrite (i : Nat) (v : Byte)
  deriving DecidableEq, Repr

/-- One move of the interleaving of 20_memory.md R64: a host access, the engine, or the reset input of
70_reset_and_hazards.md R190 (log entry 2). -/
inductive Turn where
  | host (a : Access)
  | engine
  | reset
  deriving DecidableEq, Repr

/-- The names `<ptype>` may be written by (30_encoding.md R90). -/
inductive PtypeName where
  | register | serverAck | status | heartbeat | image
  deriving DecidableEq, Repr

/-- One line of a host program (30_encoding.md R90) or a pseudo-command (R91). `<ptype>` and `<sender>` are numbers (a `PtypeName`
stands for its number).
WAIT is the host's own unbounded loop: `busyPolls` says how many of its reads find BUSY = 1 in the run meant (log entry 12). -/
inductive HostLine where
  | encode (ptype sender : Nat)
  | decodeHeader
  | decodeAck
  | cmdRaw (w : Word)
  | wr (r : Reg) (w : Word)
  | rd (r : Reg)
  | wrBuf (i : Nat) (v : Byte)
  | rdBuf (i : Nat)
  | wrPay (i : Nat) (v : Byte)
  | rdPay (i : Nat)
  | wait (busyPolls : Nat)
  | loadPay (s : List Byte)
  | loadBuf (bs : List Byte)
  | clrOvr
  deriving DecidableEq, Repr

end Sys2Proof
end

