-- ==== Sys2Proof/Decode.lean ====
section
/-! DEFINITION. The command word (30_encoding.md R83): its fields, the decoder, the encoder and the opcode table. Every 32-bit word has a meaning (R85), so the only rejection is of a word that is not one CMD write wide (R86). -/

namespace Sys2Proof

/-- `OP = w[1:0]` (R84). -/
def opField (w : Word) : BitVec 2 :=
  w.extractLsb' 0 2

/-- `PTYPE = w[10:8]` (R84). -/
def ptypeField (w : Word) : BitVec 3 :=
  w.extractLsb' 8 3

/-- `SENDER = w[23:16]` (R84). -/
def senderField (w : Word) : Byte :=
  w.extractLsb' 16 8

/-- The writable bits of CMD (10_state.md R26): `w & 0x00FF0703`. -/
def cmdMask : Word :=
  0x00FF0703#32

/-- `zext_32(v)` (00_scope.md R11). -/
def zext32 {n : Nat} (v : BitVec n) : Word :=
  v.setWidth 32

/-- A command word put together from its fields, the reserved bits 0 (R83): `sender << 16 | ptype << 8 | op`. -/
def cmdWord (op : BitVec 2) (ptype : BitVec 3) (sender : Byte) : Word :=
  zext32 sender <<< 16 ||| zext32 ptype <<< 8 ||| zext32 op

/-- The decoder: OP selects the operation (R81); PTYPE and SENDER are ENCODE's operands (R82, R84). Total: every
word has a meaning, OP = 0b11 included (R85 (a)), and the reserved bits are not read (R85 (d)). -/
def decodeWord (w : Word) : Instr :=
  if opField w = 0b00#2 then .encode (ptypeField w) (senderField w)
  else if opField w = 0b01#2 then .decodeHeader
  else if opField w = 0b10#2 then .decodeAck
  else .reservedOp3

/-- The encoder: the word of R83 for `ENCODE ptype, sender` is `sender << 16 | ptype << 8`, for DECODE_HEADER 1,
for DECODE_ACK 2, and for the reserved operation 3. -/
def encode : Instr → Word
  | .encode ptype sender => cmdWord 0b00#2 ptype sender
  | .decodeHeader => cmdWord 0b01#2 0 0
  | .decodeAck => cmdWord 0b10#2 0 0
  | .reservedOp3 => cmdWord 0b11#2 0 0

/-- Why the decoder refuses bits: a command is exactly one 32-bit CMD write (R86). -/
inductive DecodeError where
  | widerThanOneCommand (nbits : Nat)
  deriving DecidableEq, Repr

/-- The word a table row's `nbits` bits stand for: the bits above them are 0. -/
def tableWord (nbits w : Nat) : Word :=
  BitVec.ofNat 32 (w % 2 ^ nbits)

/-- The decoder on `nbits` bits numbered as spec/opcode_table.json numbers them. -/
def decodeBits (nbits w : Nat) : Except DecodeError Instr :=
  if nbits ≤ 32 then .ok (decodeWord (tableWord nbits w)) else .error (.widerThanOneCommand nbits)

/-- The instruction the decoder reads from a table word; none where it refuses. -/
def decodeTableWord (nbits w : Nat) : Option Instr :=
  match decodeBits nbits w with
  | .ok i => some i
  | .error _ => none

/-- A row of spec/opcode_table.json: the words `w` with `w & mask = match`. -/
structure OpcodeRow where
  mnemonic : String
  matchBits : Word
  mask : Word
  deriving DecidableEq, Repr

/-- The four rows of spec/opcode_table.json, in its order. -/
def opcodeTable : List OpcodeRow :=
  [ { mnemonic := "ENCODE", matchBits := 0x00000000#32, mask := 0x00000003#32 },
    { mnemonic := "DECODE_HEADER", matchBits := 0x00000001#32, mask := 0x00000003#32 },
    { mnemonic := "DECODE_ACK", matchBits := 0x00000002#32, mask := 0x00000003#32 },
    { mnemonic := "RESERVED_OP3", matchBits := 0x00000003#32, mask := 0x00000003#32 } ]

/-- The word belongs to the row. -/
def OpcodeRow.covers (r : OpcodeRow) (w : Word) : Bool :=
  decide (w &&& r.mask = r.matchBits)

/-- The mnemonic of an operation, as spec/opcode_table.json spells it. -/
def Instr.mnemonic : Instr → String
  | .encode _ _ => "ENCODE"
  | .decodeHeader => "DECODE_HEADER"
  | .decodeAck => "DECODE_ACK"
  | .reservedOp3 => "RESERVED_OP3"

end Sys2Proof
end

