-- ==== Sys2Proof/Config.lean ====
section
/-! DEFINITION. What an implementation fixes (00_scope.md R7, R8) and the free values of the spec (93_implementation_defined.md, treatment `any value`): opaque constants without a body, so that no proof can know one. -/

namespace Sys2Proof

/-- The two OPEN parameters of the block: PACKET_MAX, the capacity of BUF (R7: 0 to 2^32 - 1, hence a word;
it is also the hardwired value of CAP, R42), and PAY_BYTES, the capacity of PAY (R8). -/
structure Params where
  packetMax : Word
  payBytes : Nat
  deriving DecidableEq, Repr

/-- PACKET_MAX of the machine `State.reset` describes. The spec gives no value (R7, D2, U7); log entry 1. -/
opaque Config.packetMax : Word

/-- How far PAY_BYTES exceeds its least legal value `max(0, PACKET_MAX - 9)` (R8, D3, U8); log entry 1. -/
opaque Config.paySlack : Nat

/-- The parameters of the machine `State.reset` describes: every pair R7 and R8 allow has this form. -/
def Config.params : Params :=
  { packetMax := Config.packetMax, payBytes := Config.packetMax.toNat - 9 + Config.paySlack }

/-- FREE VALUE: the byte cell `i` of BUF holds after reset number `epoch` (R191, U1); log entry 4. -/
opaque Config.resetBuf (epoch i : Nat) : Byte

/-- FREE VALUE: the byte cell `i` of PAY holds after reset number `epoch` (R191, U1, U17); log entry 4. -/
opaque Config.resetPay (epoch i : Nat) : Byte

/-- FREE VALUE: draw number `k` of a register read while BUSY = 1 (R44, U2); log entry 5. -/
opaque Config.busyWord (k : Nat) : Word

/-- FREE VALUE: draw number `k` of a BUF read while an ENCODE is in flight (R196, U3); log entry 5. -/
opaque Config.busyByte (k : Nat) : Byte

end Sys2Proof
end

