-- ==== Sys2Proof/Machine/State.lean ====
section
/-! DEFINITION. The state of the block (10_state.md R20, R21, R27, R28), the reasons a step can stop, and the state after reset (70_reset_and_hazards.md R190). -/

namespace Sys2Proof.Machine

/-- The fields of CMD (10_state.md R25). Its reserved bits are no storage: they read 0 and ignore writes (R21; log entry 9). -/
structure Cmd where
  op : BitVec 2
  ptype : BitVec 3
  sender : Byte
  deriving DecidableEq, Repr

/-- The fields of STATUS (10_state.md R29 to R32). -/
structure Status where
  busy : Bool
  done : Bool
  ovr : Bool
  err : BitVec 4
  deriving DecidableEq, Repr

/-- The fields of HDR (10_state.md R37): TYPE, SENDER, PRIO. -/
structure Hdr where
  typeCode : Byte
  sender : Byte
  prio : Byte
  deriving DecidableEq, Repr

/-- The fields of RSV (10_state.md R39). -/
structure Rsv where
  b1 : Byte
  b2 : Byte
  b3 : Byte
  deriving DecidableEq, Repr

/-- The six result registers (00_scope.md R16), all rewritten at every completion (60_exceptions.md R165):
TXLEN (R36), HDR (R37), PLEN (R38), RSV (R39), CLOCK (R40), ERRINFO (R41). -/
structure Results where
  txlen : Word
  hdr : Hdr
  plen : Word
  rsv : Rsv
  clock : BitVec 16
  errinfo : Byte
  deriving DecidableEq, Repr

/-- Every result register 0: their reset value (R21), and their value after a failure (R165). -/
def Results.zero : Results :=
  { txlen := 0
    hdr := { typeCode := 0, sender := 0, prio := 0 }
    plen := 0
    rsv := { b1 := 0, b2 := 0, b3 := 0 }
    clock := 0
    errinfo := 0 }

/-- The cells of a byte memory that have been written since the last reset, in rising order of index. An unlisted
cell has no listed value: it holds a draw (70_reset_and_hazards.md R191; log entry 4). -/
abbrev Memory := List Host.Cell

/-- The result column of 20_memory.md R50 for one host access (log entry 3). -/
inductive Answer where
  | none
  | word (w : Word)
  | byte (b : Byte)
  deriving DecidableEq, Repr

/-- The state. `cfg` holds the two parameters, which no step changes; its `packetMax` is the register CAP (R42).
`epoch`, `draws`, `turns` and `answer` are the model's own (log entries 2 to 5). -/
structure State where
  /-- PACKET_MAX, readable as CAP (R42), and PAY_BYTES (R8). -/
  cfg : Params
  /-- CMD (R25, R26). -/
  cmd : Cmd
  /-- STATUS (R29 to R32). -/
  status : Status
  /-- RXLEN.COUNT (R35). -/
  rxlen : Word
  /-- TXLEN, HDR, PLEN, RSV, CLOCK, ERRINFO (R36 to R41). -/
  results : Results
  /-- BUF (R27). -/
  buf : Memory
  /-- PAY (R28). -/
  pay : Memory
  /-- The model's own: how many resets there were; it selects the draws of R191. -/
  epoch : Nat
  /-- The model's own: how many draws host reads have made (R44, R196). -/
  draws : Nat
  /-- The model's own: the turns still to come, the next one first (R64). -/
  turns : List Turn
  /-- The model's own: what the last host access answered (R50). -/
  answer : Answer
  deriving DecidableEq, Repr

/-- What the host may not write while an operation is in flight (70_reset_and_hazards.md R195). -/
inductive HazardOperand where
  | buf | pay | rxlen
  deriving DecidableEq, Repr

/-- Why a step stops. Both are faults of a host access; no operation of the engine ever faults (60_exceptions.md R168). -/
inductive Fault where
  /-- Raised by a host access outside the REG offsets or the BUF or PAY range (20_memory.md R52 to R54, R56:
  "A model records a BusError as a fault of the host step"). Safe: the block itself goes on unchanged. -/
  | busError (space : Space) (index : Nat)
  /-- Raised by a host write of BUF, PAY or RXLEN while BUSY = 1 (70_reset_and_hazards.md R195: "A model records
  such a write as a fault `HostHazard`"). Safe: nothing is claimed of the results the spec leaves unspecified. -/
  | hostHazard (operand : HazardOperand)
  deriving DecidableEq, Repr

/-- Why a step has no meaning. -/
inductive Refusal where
  /-- Reserved for an arm of `exec` that has no meaning yet. No arm uses it: every row of the opcode table has its
  meaning. Safe. -/
  | notModelled (mnemonic : String)
  deriving DecidableEq, Repr

/-- The block after reset (70_reset_and_hazards.md R190, R191; reset values of 10_state.md R21): every register 0,
CAP = PACKET_MAX, every cell of BUF and PAY a draw. -/
def State.reset : State :=
  { cfg := Config.params
    cmd := { op := 0, ptype := 0, sender := 0 }
    status := { busy := false, done := false, ovr := false, err := 0 }
    rxlen := 0
    results := Results.zero
    buf := []
    pay := []
    epoch := 0
    draws := 0
    turns := []
    answer := .none }

end Sys2Proof.Machine
end

