-- ==== Sys2Proof/Machine/Flags.lean ====
section
/-! DEFINITION. STATUS: the error codes (60_exceptions.md R161), the word a read returns (10_state.md R21), and every rule that changes a flag (R29 to R34). -/

namespace Sys2Proof.Machine

/-- The error causes of 60_exceptions.md R161. -/
inductive ErrCode where
  | ok
  | frameTooLarge
  | incompleteFrame
  | unexpectedFrameType
  | invalidPacketType
  | illegalCommand
  deriving DecidableEq, Repr

/-- Their values in STATUS.ERR (R161). -/
def ErrCode.code : ErrCode → BitVec 4
  | .ok => 0
  | .frameTooLarge => 1
  | .incompleteFrame => 2
  | .unexpectedFrameType => 3
  | .invalidPacketType => 4
  | .illegalCommand => 5

/-- The word a read of STATUS returns (10_state.md R21; 95_test_vectors.md writes it so):
`ERR << 8 | OVR << 2 | DONE << 1 | BUSY`, the reserved bits 0. -/
def Status.toWord (t : Status) : Word :=
  zext32 t.err <<< 8 ||| zext32 (BitVec.ofBool t.ovr) <<< 2 ||| zext32 (BitVec.ofBool t.done) <<< 1
    ||| zext32 (BitVec.ofBool t.busy)

/-- Acceptance of a command (10_state.md R33, first branch): DONE <- 0, BUSY <- 1. -/
def Status.accepted (t : Status) : Status :=
  { t with done := false, busy := true }

/-- A command write while BUSY = 1 (R33, second branch): OVR <- 1. -/
def Status.overrun (t : Status) : Status :=
  { t with ovr := true }

/-- A host write of `w` to STATUS (R34): bit 2 clears OVR, every other bit is ignored. -/
def Status.hostWritten (t : Status) (w : Word) : Status :=
  if w.getLsbD 2 then { t with ovr := false } else t

/-- Completion (60_exceptions.md R165): ERR <- the code, BUSY <- 0, DONE <- 1; OVR is not written. -/
def Status.completed (t : Status) (e : ErrCode) : Status :=
  { t with err := e.code, busy := false, done := true }

end Sys2Proof.Machine
end

