-- ==== Sys2Proof/Machine/Operands.lean ====
section
/-! DEFINITION. The operand forms: register words and their fields, the PacketType table (30_encoding.md R82), the big-endian u32 (00_scope.md R14), the frame bytes (41_frame_encoder.md R106), the terminator scan (R104) and the clock value (42_frame_decoder.md R143). -/

namespace Sys2Proof.Machine

/-- What CMD keeps of a written word (10_state.md R26): OP, PTYPE and SENDER. -/
def Cmd.ofWord (w : Word) : Cmd :=
  { op := opField w, ptype := ptypeField w, sender := senderField w }

/-- The word a read of CMD returns (R26), the reserved bits 0. -/
def Cmd.toWord (c : Cmd) : Word :=
  cmdWord c.op c.ptype c.sender

/-- The word a read of HDR returns (10_state.md R21, R37): PRIO[23:16], SENDER[15:8], TYPE[7:0]. -/
def Hdr.toWord (h : Hdr) : Word :=
  zext32 h.prio <<< 16 ||| zext32 h.sender <<< 8 ||| zext32 h.typeCode

/-- The word a read of RSV returns (R21, R39): B3[23:16], B2[15:8], B1[7:0]. -/
def Rsv.toWord (r : Rsv) : Word :=
  zext32 r.b3 <<< 16 ||| zext32 r.b2 <<< 8 ||| zext32 r.b1

/-- The PacketTypes, in the order of the source's table (30_encoding.md R82). -/
inductive PacketType where
  | clientRegister | serverAck | statusUpdate | heartbeat | image
  deriving DecidableEq, Repr

/-- The PTYPE column of R82; 5, 6 and 7 select no PacketType. -/
def PacketType.ofPtype (p : BitVec 3) : Option PacketType :=
  if p = 0 then some .clientRegister
  else if p = 1 then some .serverAck
  else if p = 2 then some .statusUpdate
  else if p = 3 then some .heartbeat
  else if p = 4 then some .image
  else none

/-- The type code and priority columns of R82; a ServerAck is never sent by a client. -/
def PacketType.codes : PacketType → Option (Byte × Byte)
  | .clientRegister => some (0x00, 0x02)
  | .serverAck => none
  | .statusUpdate => some (0x02, 0x02)
  | .heartbeat => some (0x02, 0x01)
  | .image => some (0x03, 0x02)

/-- Type code and priority selection (41_frame_encoder.md R101); none is InvalidPacketType (R102). -/
def selectCodes (p : BitVec 3) : Option (Byte × Byte) :=
  match PacketType.ofPtype p with
  | some t => t.codes
  | none => none

/-- `BE32(n)` (00_scope.md R14): `[n[31:24], n[23:16], n[15:8], n[7:0]]`. -/
def be32 (n : Word) : List Byte :=
  [n.extractLsb' 24 8, n.extractLsb' 16 8, n.extractLsb' 8 8, n.extractLsb' 0 8]

/-- `BE32^-1([a, b, c, d]) = a << 24 | b << 16 | c << 8 | d` (R14), computed on naturals (R11). -/
def fromBe32 (a b c d : Byte) : Word :=
  BitVec.ofNat 32 (a.toNat <<< 24 ||| b.toNat <<< 16 ||| c.toNat <<< 8 ||| d.toNat)

/-- The frame ENCODE writes from index 0 (41_frame_encoder.md R106, R107): type code, three zero bytes, sender id,
priority, the payload length as BE32, then the payload. -/
def frameBytes (t sender q : Byte) (payload : List Byte) : List Byte :=
  [t, 0x00, 0x00, 0x00, sender, q] ++ be32 (BitVec.ofNat 32 payload.length) ++ payload

/-- The terminator scan (R104): the first of the `count` indices `i, i + 1, ...` whose byte is 0x00. -/
def firstZero (read : Nat → Byte) (i count : Nat) : Option Nat :=
  match count with
  | 0 => none
  | k + 1 => if read i = 0x00 then some i else firstZero read (i + 1) k

/-- `raw` of 42_frame_decoder.md R143: whole bytes shifted by 12, 8, 4 and 0 over unbounded naturals, and ORed. -/
def clockRaw (b2 b3 b4 b5 : Byte) : Nat :=
  b2.toNat <<< 12 ||| b3.toNat <<< 8 ||| b4.toNat <<< 4 ||| b5.toNat

/-- `CLOCK.VALUE = raw[15:0]` (R143, 90_conflicts.md C1). -/
def clockValue (b2 b3 b4 b5 : Byte) : BitVec 16 :=
  BitVec.ofNat 16 (clockRaw b2 b3 b4 b5)

end Sys2Proof.Machine
end

