-- ==== Sys2Proof/Machine/Ops.lean ====
section
/-! DEFINITION. The named operations: the byte memories (00_scope.md R12), acceptance of a command (10_state.md R33), completion and `raise` (60_exceptions.md R165, 00_scope.md R13), the host's answer (20_memory.md R50) and reset (70_reset_and_hazards.md R190). -/

namespace Sys2Proof.Machine

/-- The canonical form of a memory: indices strictly rising. No entry can equal what an unlisted cell is listed as,
which is no value (log entry 4). -/
abbrev Memory.wf (m : Memory) : Prop :=
  m.Pairwise (fun a b => a.1 < b.1)

/-- The listed value of cell `i`; none where nothing has been written since reset. -/
def Memory.get? (m : Memory) (i : Nat) : Option Byte :=
  match m with
  | [] => none
  | (a, v) :: rest => if a = i then some v else Memory.get? rest i

/-- `m` with cell `i` listed as `v`, in the canonical form. -/
def Memory.set (m : Memory) (i : Nat) (v : Byte) : Memory :=
  match m with
  | [] => [(i, v)]
  | (a, u) :: rest =>
    if i < a then (i, v) :: (a, u) :: rest
    else if i = a then (i, v) :: rest
    else (a, u) :: Memory.set rest i v

/-- `m` with the bytes `bs` written at indices `i, i + 1, ...` in order. -/
def Memory.setList (m : Memory) (i : Nat) (bs : List Byte) : Memory :=
  match bs with
  | [] => m
  | b :: rest => Memory.setList (m.set i b) (i + 1) rest

/-- What an unlisted cell reads as: the draw of R191 for this reset (log entry 4). -/
def State.unlistedByte (s : State) (sp : MemSpace) (i : Nat) : Byte :=
  match sp with
  | .buf => Config.resetBuf s.epoch i
  | .pay => Config.resetPay s.epoch i

/-- `MemRead(S, i, 1)` (00_scope.md R12). -/
def State.memRead (s : State) (sp : MemSpace) (i : Nat) : Byte :=
  match sp with
  | .buf => (s.buf.get? i).getD (s.unlistedByte .buf i)
  | .pay => (s.pay.get? i).getD (s.unlistedByte .pay i)

/-- `MemWrite(S, i, 1, v)` (R12). -/
def State.memWrite (s : State) (sp : MemSpace) (i : Nat) (v : Byte) : State :=
  match sp with
  | .buf => { s with buf := s.buf.set i v }
  | .pay => { s with pay := s.pay.set i v }

/-- `MemWrite` of successive bytes of BUF from index 0: the writes of ENCODE (41_frame_encoder.md R106, R107). -/
def State.writeFrame (s : State) (bs : List Byte) : State :=
  { s with buf := s.buf.setList 0 bs }

/-- `limit = PACKET_MAX - 10`, a signed integer (R103). -/
def State.payloadLimit (s : State) : Int :=
  (s.cfg.packetMax.toNat : Int) - 10

/-- The payload length (R104): the first `n` in 0, 1, ..., limit with PAY[n] = 0x00; none is FrameTooLarge
(R103 when limit is negative, R105 when no byte up to limit is zero). -/
def State.payloadLength (s : State) : Option Nat :=
  if s.payloadLimit < 0 then none
  else firstZero (fun i => s.memRead .pay i) 0 (s.payloadLimit.toNat + 1)

/-- The payload: PAY[0 .. n-1] (R104). -/
def State.payload (s : State) (n : Nat) : List Byte :=
  (List.range n).map (fun j => s.memRead .pay j)

/-- Acceptance of the command word `w` (10_state.md R33, first branch). -/
def State.accept (s : State) (w : Word) : State :=
  { s with cmd := Cmd.ofWord w, status := s.status.accepted }

/-- A host write of `w` to CMD (R33). -/
def State.writeCmd (s : State) (w : Word) : State :=
  if s.status.busy then { s with status := s.status.overrun } else s.accept w

/-- `min(w, PACKET_MAX)` (R35). -/
def State.clampRxlen (s : State) (w : Word) : Word :=
  if w.toNat ≤ s.cfg.packetMax.toNat then w else s.cfg.packetMax

/-- The one completion of every operation (60_exceptions.md R165): the six result registers, ERR, BUSY and DONE. -/
def State.complete (s : State) (e : ErrCode) (r : Results) : State :=
  { s with results := r, status := s.status.completed e }

/-- `raise E(info)` (00_scope.md R13, 60_exceptions.md R161, R168): the operation ends with error `e`, every result
register 0 but ERRINFO, which holds `info` (0 for every error but UnexpectedFrameType). Nothing else is saved and
control goes nowhere. -/
def State.raise (s : State) (e : ErrCode) (info : Byte) : State :=
  s.complete e { Results.zero with errinfo := info }

/-- The host has its answer (20_memory.md R50). -/
def State.answered (s : State) (a : Answer) : State :=
  { s with answer := a }

/-- A draw has been made (10_state.md R44, 70_reset_and_hazards.md R196). -/
def State.drew (s : State) : State :=
  { s with draws := s.draws + 1 }

/-- Reset (70_reset_and_hazards.md R190, R191): every register at its reset value, an operation in flight
abandoned, every cell of BUF and PAY a fresh draw. The parameters stand, and so do the turns still to come. -/
def State.resetBlock (s : State) : State :=
  { State.reset with cfg := s.cfg, epoch := s.epoch + 1, draws := s.draws, turns := s.turns }

end Sys2Proof.Machine
end

