-- ==== Sys2Proof/Machine/FrameDecoder.lean ====
section
/-! DEFINITION. The frame decoder (42_frame_decoder.md): DECODE_HEADER and DECODE_ACK. -/

namespace Sys2Proof.Machine

/-- DECODE_HEADER (R130): IncompleteFrame when RXLEN < 10 (R133); otherwise the ten header bytes as received,
without validation (R131), the length as a big-endian u32 (R132). -/
def execDecodeHeader (s : State) : Host.Outcome State Fault Refusal :=
  .next <|
    if s.rxlen.toNat < 10 then s.raise .incompleteFrame 0
    else
      s.complete .ok
        { Results.zero with
          hdr := { typeCode := s.memRead .buf 0, sender := s.memRead .buf 4, prio := s.memRead .buf 5 }
          plen := fromBe32 (s.memRead .buf 6) (s.memRead .buf 7) (s.memRead .buf 8) (s.memRead .buf 9)
          rsv := { b1 := s.memRead .buf 1, b2 := s.memRead .buf 2, b3 := s.memRead .buf 3 } }

/-- DECODE_ACK (R140). Errors in order (60_exceptions.md R166): IncompleteFrame when RXLEN < 6 (R145), then
UnexpectedFrameType carrying BUF[0] when it is not 0x02 (R141). On success the sender id is BUF[1], PRIO is 0
(R142), and CLOCK is the nibble-shift value (R143). -/
def execDecodeAck (s : State) : Host.Outcome State Fault Refusal :=
  .next <|
    if s.rxlen.toNat < 6 then s.raise .incompleteFrame 0
    else if s.memRead .buf 0 ≠ 0x02 then s.raise .unexpectedFrameType (s.memRead .buf 0)
    else
      s.complete .ok
        { Results.zero with
          hdr := { typeCode := s.memRead .buf 0, sender := s.memRead .buf 1, prio := 0 }
          clock := clockValue (s.memRead .buf 2) (s.memRead .buf 3) (s.memRead .buf 4) (s.memRead .buf 5) }

end Sys2Proof.Machine
end

