-- ==== Sys2Proof/Machine/FrameEncoder.lean ====
section
/-! DEFINITION. The frame encoder (41_frame_encoder.md): ENCODE. -/

namespace Sys2Proof.Machine

/-- ENCODE (R100). Errors in order (60_exceptions.md R166): InvalidPacketType, then FrameTooLarge; neither writes
BUF. On success the frame of R106 and R107 stands in BUF from index 0 and the results are those of R108. -/
def execEncode (ptype : BitVec 3) (sender : Byte) (s : State) : Host.Outcome State Fault Refusal :=
  .next <|
    match selectCodes ptype with
    | none => s.raise .invalidPacketType 0
    | some (t, q) =>
      match s.payloadLength with
      | none => s.raise .frameTooLarge 0
      | some n =>
        (s.writeFrame (frameBytes t sender q (s.payload n))).complete .ok
          { Results.zero with
            txlen := BitVec.ofNat 32 (10 + n)
            hdr := { typeCode := t, sender := sender, prio := q }
            plen := BitVec.ofNat 32 n }

end Sys2Proof.Machine
end

