-- ==== Sys2Proof/Machine/Lifecycle.lean ====
section
/-! DEFINITION. The reserved operation value OP = 0b11 (60_exceptions.md R163). -/

namespace Sys2Proof.Machine

/-- RESERVED_OP3 (R163): no memory is read or written; it completes with IllegalCommand and every result 0. -/
def execReservedOp3 (s : State) : Host.Outcome State Fault Refusal :=
  .next (s.raise .illegalCommand 0)

end Sys2Proof.Machine
end

