-- ==== Sys2Proof/Machine/Dispatch.lean ====
section
/-! DEFINITION. One arm per operation: the case of 60_exceptions.md R160. -/

namespace Sys2Proof.Machine

def exec (i : Instr) (s : State) : Host.Outcome State Fault Refusal :=
  match i with
  | .encode ptype sender => Sys2Proof.Machine.execEncode ptype sender s
  | .decodeHeader => Sys2Proof.Machine.execDecodeHeader s
  | .decodeAck => Sys2Proof.Machine.execDecodeAck s
  | .reservedOp3 => Sys2Proof.Machine.execReservedOp3 s

end Sys2Proof.Machine
end

