-- ==== Sys2Proof/WellFormed.lean ====
section
/-! DEFINITION. What a well-formed parameter pair, host access and host-program line is. A term of `Instr` has no ill-formed value: its fields have exactly the widths of the CMD fields (10_state.md R25: the limit on sender ids "holds by construction"). -/

namespace Sys2Proof

/-- 00_scope.md R8: `PAY_BYTES >= max(0, PACKET_MAX - 9)`. (R7's bound on PACKET_MAX holds by its type.) -/
def Params.wellFormed (c : Params) : Bool :=
  decide (c.packetMax.toNat - 9 ≤ c.payBytes)

/-- The byte offset of a register: the table of 10_state.md R21. -/
def Reg.offset : Reg → Nat
  | .cmd => 0x00
  | .status => 0x04
  | .rxlen => 0x08
  | .txlen => 0x0C
  | .hdr => 0x10
  | .plen => 0x14
  | .rsv => 0x18
  | .clock => 0x1C
  | .errinfo => 0x20
  | .cap => 0x24

/-- The ten valid REG offsets of 20_memory.md R51. -/
def Reg.offsets : List Nat :=
  [0x00, 0x04, 0x08, 0x0C, 0x10, 0x14, 0x18, 0x1C, 0x20, 0x24]

/-- An access inside its space (20_memory.md R52, R53, R54): one that raises no BusError. -/
def Access.wellFormed (c : Params) : Access → Bool
  | .regRead off => Reg.offsets.contains off
  | .regWrite off _ => Reg.offsets.contains off
  | .bufRead i => decide (i < c.packetMax.toNat)
  | .bufWrite i _ => decide (i < c.packetMax.toNat)
  | .payRead i => decide (i < c.payBytes)
  | .payWrite i _ => decide (i < c.payBytes)

/-- The conditions of 30_encoding.md R90 and R91 on a host-program line: `<ptype>` from 0 to 7, `<sender>` a byte,
indices in range, LOADPAY's string free of zero bytes and shorter than PAY, LOADBUF's bytes no more than BUF holds. -/
def HostLine.wellFormed (c : Params) : HostLine → Bool
  | .encode ptype sender => decide (ptype ≤ 7) && decide (sender ≤ 255)
  | .decodeHeader => true
  | .decodeAck => true
  | .cmdRaw _ => true
  | .wr _ _ => true
  | .rd _ => true
  | .wrBuf i _ => decide (i < c.packetMax.toNat)
  | .rdBuf i => decide (i < c.packetMax.toNat)
  | .wrPay i _ => decide (i < c.payBytes)
  | .rdPay i => decide (i < c.payBytes)
  | .wait _ => true
  | .loadPay s => decide (s.length < c.payBytes) && s.all (fun b => b != 0)
  | .loadBuf bs => decide (bs.length ≤ c.packetMax.toNat)
  | .clrOvr => true

end Sys2Proof
end

