-- ==== Sys2Proof/Machine/HostAccess.lean ====
section
/-! DEFINITION. The host's six accesses (20_memory.md R50 to R57) with the read and write rules of every register (10_state.md R26 to R44) and the hazards of 70_reset_and_hazards.md R195 and R196. -/

namespace Sys2Proof.Machine

/-- The register at a byte offset (10_state.md R21); none at every other offset (20_memory.md R52). -/
def regAt (off : Nat) : Option Reg :=
  if off = 0x00 then some .cmd
  else if off = 0x04 then some .status
  else if off = 0x08 then some .rxlen
  else if off = 0x0C then some .txlen
  else if off = 0x10 then some .hdr
  else if off = 0x14 then some .plen
  else if off = 0x18 then some .rsv
  else if off = 0x1C then some .clock
  else if off = 0x20 then some .errinfo
  else if off = 0x24 then some .cap
  else none

/-- The value a register holds, as the word of 10_state.md R21: its fields, the reserved bits 0. -/
def State.regValue (s : State) (r : Reg) : Word :=
  match r with
  | .cmd => s.cmd.toWord
  | .status => s.status.toWord
  | .rxlen => s.rxlen
  | .txlen => s.results.txlen
  | .hdr => s.results.hdr.toWord
  | .plen => s.results.plen
  | .rsv => s.results.rsv.toWord
  | .clock => zext32 s.results.clock
  | .errinfo => zext32 s.results.errinfo
  | .cap => s.cfg.packetMax

/-- What a read of a register returns while BUSY = 1 (R44), `d` being the draw: a result register is unspecified,
its reserved bits 0; STATUS is exact but for ERR; CMD, RXLEN and CAP are exact. -/
def State.busyValue (s : State) (r : Reg) (d : Word) : Word :=
  match r with
  | .cmd => s.regValue .cmd
  | .status => { s.status with err := d.extractLsb' 8 4 }.toWord
  | .rxlen => s.regValue .rxlen
  | .txlen => d
  | .hdr => d &&& 0x00FFFFFF#32
  | .plen => d
  | .rsv => d &&& 0x00FFFFFF#32
  | .clock => d &&& 0x0000FFFF#32
  | .errinfo => d &&& 0x000000FF#32
  | .cap => s.regValue .cap

/-- `RegRead(off)` (20_memory.md R51, R52). -/
def hostRegRead (off : Nat) (s : State) : Host.Outcome State Fault Refusal :=
  match regAt off with
  | none => .fault (.busError .reg off)
  | some r =>
    if s.status.busy then .next (s.drew.answered (.word (s.busyValue r (Config.busyWord s.draws))))
    else .next (s.answered (.word (s.regValue r)))

/-- A host write of RXLEN (10_state.md R35), which the host must not make while BUSY = 1 (R195). -/
def hostWriteRxlen (w : Word) (s : State) : Host.Outcome State Fault Refusal :=
  if s.status.busy then .fault (.hostHazard .rxlen)
  else .next ({ s with rxlen := s.clampRxlen w }.answered .none)

/-- `RegWrite(off, w)` (20_memory.md R51, R52): CMD by R33, STATUS by R34, RXLEN by R35, a read-only register by R43. -/
def hostRegWrite (off : Nat) (w : Word) (s : State) : Host.Outcome State Fault Refusal :=
  match regAt off with
  | none => .fault (.busError .reg off)
  | some .cmd => .next ((s.writeCmd w).answered .none)
  | some .status => .next ({ s with status := s.status.hostWritten w }.answered .none)
  | some .rxlen => hostWriteRxlen w s
  | some .txlen => .next (s.answered .none)
  | some .hdr => .next (s.answered .none)
  | some .plen => .next (s.answered .none)
  | some .rsv => .next (s.answered .none)
  | some .clock => .next (s.answered .none)
  | some .errinfo => .next (s.answered .none)
  | some .cap => .next (s.answered .none)

/-- An ENCODE is in flight: BUSY = 1 and CMD.OP = 0b00 (R196). -/
def State.encodeInFlight (s : State) : Bool :=
  s.status.busy && decide (s.cmd.op = 0b00#2)

/-- `BufRead(i)` (20_memory.md R53); unspecified while an ENCODE is in flight (R196). -/
def hostBufRead (i : Nat) (s : State) : Host.Outcome State Fault Refusal :=
  if i < s.cfg.packetMax.toNat then
    if s.encodeInFlight then .next (s.drew.answered (.byte (Config.busyByte s.draws)))
    else .next (s.answered (.byte (s.memRead .buf i)))
  else .fault (.busError .buf i)

/-- `BufWrite(i, v)` (R53), which the host must not make while BUSY = 1 (R195). Out of range it is a BusError,
whatever is in flight (60_exceptions.md R164; log entry 7). -/
def hostBufWrite (i : Nat) (v : Byte) (s : State) : Host.Outcome State Fault Refusal :=
  if i < s.cfg.packetMax.toNat then
    if s.status.busy then .fault (.hostHazard .buf)
    else .next ((s.memWrite .buf i v).answered .none)
  else .fault (.busError .buf i)

/-- `PayRead(i)` (20_memory.md R54), exact at all times (R196). -/
def hostPayRead (i : Nat) (s : State) : Host.Outcome State Fault Refusal :=
  if i < s.cfg.payBytes then .next (s.answered (.byte (s.memRead .pay i)))
  else .fault (.busError .pay i)

/-- `PayWrite(i, v)` (R54), which the host must not make while BUSY = 1 (R195). -/
def hostPayWrite (i : Nat) (v : Byte) (s : State) : Host.Outcome State Fault Refusal :=
  if i < s.cfg.payBytes then
    if s.status.busy then .fault (.hostHazard .pay)
    else .next ((s.memWrite .pay i v).answered .none)
  else .fault (.busError .pay i)

/-- One host access, one atomic step (20_memory.md R50). -/
def hostAccess (a : Access) (s : State) : Host.Outcome State Fault Refusal :=
  match a with
  | .regRead off => hostRegRead off s
  | .regWrite off w => hostRegWrite off w s
  | .bufRead i => hostBufRead i s
  | .bufWrite i v => hostBufWrite i v s
  | .payRead i => hostPayRead i s
  | .payWrite i v => hostPayWrite i v s

end Sys2Proof.Machine
end

