-- ==== Sys2Proof/Machine/Engine.lean ====
section
/-! DEFINITION. The engine's step (60_exceptions.md R160) and one turn of the interleaving (20_memory.md R64). -/

namespace Sys2Proof.Machine

/-- The operation CMD holds: what the engine executes (R160; 10_state.md R26). -/
def State.command (s : State) : Instr :=
  decodeWord s.cmd.toWord

/-- The engine step (R160): while BUSY = 1 it executes the command in CMD, atomically and as a whole; while
BUSY = 0 the engine has no step, and its turn passes with nothing changed (log entry 2). -/
def engineStep (s : State) : Host.Outcome State Fault Refusal :=
  if s.status.busy then exec s.command s else .next s

/-- One turn: a host access, the engine, or reset. -/
def runTurn (t : Turn) (s : State) : Host.Outcome State Fault Refusal :=
  match t with
  | .host a => hostAccess a s
  | .engine => engineStep s
  | .reset => .next s.resetBlock

/-- `s` with the command word `w` accepted and the engine's turn next: an engine turn is put before turns that are
still to come; where there are none, the engine moves anyway (log entry 8). -/
def State.fetchCommand (s : State) (w : Word) : State :=
  { s.accept w with
    turns :=
      match s.turns with
      | [] => []
      | t :: rest => .engine :: t :: rest }

end Sys2Proof.Machine
end

