-- ==== Sys2Proof/Machine/Step.lean ====
section
/-! DEFINITION. The step: the next turn of the interleaving (20_memory.md R64), the engine's when no turn is left. -/

namespace Sys2Proof.Machine

/-- One step of the machine. The first of the turns still to come is taken; when none is left the host has taken
its last step, and the engine moves: it completes an operation in flight (70_reset_and_hazards.md R198: "the engine
step eventually happens"), or the block stays idle (60_exceptions.md R174). -/
def step (s : State) : Host.Outcome State Fault Refusal :=
  match s.turns with
  | [] => engineStep s
  | t :: rest => runTurn t { s with turns := rest }

/-- `s` with the instruction of a table word where `step` takes its next instruction: accepted in CMD, the engine's
turn next (log entry 8). -/
def State.withFetchWord (s : State) (nbits w : Nat) : State :=
  s.fetchCommand (tableWord nbits w)

end Sys2Proof.Machine
end

