-- ==== Sys2Proof/Machine/HostProgram.lean ====
section
/-! DEFINITION. The host-program notation (30_encoding.md R90) and the pseudo-commands (R91), as the turns they stand for. -/

namespace Sys2Proof.Machine

/-- The number a name of `<ptype>` stands for (R90). -/
def PtypeName.number : PtypeName → Nat
  | .register => 0
  | .serverAck => 1
  | .status => 2
  | .heartbeat => 3
  | .image => 4

/-- `op i, s[i]` for each byte of `s`, the first at index `i`. -/
def byteWrites (op : Nat → Byte → Access) (i : Nat) (s : List Byte) : List Turn :=
  match s with
  | [] => []
  | b :: rest => .host (op i b) :: byteWrites op (i + 1) rest

/-- The turns of a line (R90, R91). WAIT reads STATUS while BUSY = 1, the engine moves, and one more read finds
BUSY = 0 (log entry 12). -/
def HostLine.turns (l : HostLine) : List Turn :=
  match l with
  | .encode ptype sender => [.host (.regWrite 0x00 (BitVec.ofNat 32 (sender <<< 16 ||| ptype <<< 8)))]
  | .decodeHeader => [.host (.regWrite 0x00 0x00000001#32)]
  | .decodeAck => [.host (.regWrite 0x00 0x00000002#32)]
  | .cmdRaw w => [.host (.regWrite 0x00 w)]
  | .wr r w => [.host (.regWrite r.offset w)]
  | .rd r => [.host (.regRead r.offset)]
  | .wrBuf i v => [.host (.bufWrite i v)]
  | .rdBuf i => [.host (.bufRead i)]
  | .wrPay i v => [.host (.payWrite i v)]
  | .rdPay i => [.host (.payRead i)]
  | .wait busyPolls => List.replicate busyPolls (.host (.regRead 0x04)) ++ [.engine, .host (.regRead 0x04)]
  | .loadPay s => byteWrites .payWrite 0 s ++ [.host (.payWrite s.length 0x00)]
  | .loadBuf bs => byteWrites .bufWrite 0 bs ++ [.host (.regWrite 0x08 (BitVec.ofNat 32 bs.length))]
  | .clrOvr => [.host (.regWrite 0x04 0x00000004#32)]

/-- The turns of a host program, line by line in program order (20_memory.md R50). -/
def programTurns (p : List HostLine) : List Turn :=
  match p with
  | [] => []
  | l :: rest => HostLine.turns l ++ programTurns rest

end Sys2Proof.Machine
end

