-- ==== Sys2Proof/Safety.lean ====
section
/-! DEFINITION. What counts as a safe access and a safe run, when a run has ended, and the invariant every step keeps. -/

namespace Sys2Proof.Machine

/-- A host write the host must not make while BUSY = 1 (70_reset_and_hazards.md R195): BUF, PAY or RXLEN. -/
def Access.writesOperand : Access → Bool
  | .regRead _ => false
  | .regWrite off _ => off == 0x08
  | .bufRead _ => false
  | .bufWrite _ _ => true
  | .payRead _ => false
  | .payWrite _ _ => true

/-- The premises "no BusError" (20_memory.md R56) and "no HostHazard" (R195) on one access. -/
def Access.safe (c : Params) (busy : Bool) (a : Access) : Bool :=
  a.wellFormed c && !(busy && Access.writesOperand a)

/-- A safe run: `k` steps without a fault or a refusal. -/
def SafeRun (k : Nat) (s : State) : Prop :=
  ∃ t, Sys2Proof.core.run k s = .next t

/-- The end of a run (70_reset_and_hazards.md R199): the host has taken its last step, so that no host turn is left
(engine and reset turns may be), and BUSY = 0. -/
def RunEnded (s : State) : Prop :=
  (∀ a, Turn.host a ∉ s.turns) ∧ s.status.busy = false

/-- What holds in every state a run can reach. -/
structure Inv (s : State) : Prop where
  /-- PAY is large enough for the length scan (00_scope.md R8). -/
  cfg_ok : s.cfg.wellFormed = true
  /-- BUF is in its canonical form, and only existing cells are listed (R27). -/
  buf_wf : s.buf.wf
  buf_in : ∀ c ∈ s.buf, c.1 < s.cfg.packetMax.toNat
  /-- PAY is in its canonical form, and only existing cells are listed (R28). -/
  pay_wf : s.pay.wf
  pay_in : ∀ c ∈ s.pay, c.1 < s.cfg.payBytes
  /-- RXLEN never exceeds PACKET_MAX (10_state.md R35). -/
  rxlen_le : s.rxlen.toNat ≤ s.cfg.packetMax.toNat
  /-- The block never produces error codes 6 to 15 (R32). -/
  err_le : s.status.err.toNat ≤ 5
  /-- Acceptance clears DONE and completion clears BUSY (R33, R165). -/
  not_both : s.status.busy = true → s.status.done = false
  /-- Idle with nothing done happens only after reset, and the registers then hold their reset values (R30). -/
  fresh : s.status.busy = false → s.status.done = false →
    s.cmd = { op := 0, ptype := 0, sender := 0 } ∧ s.status.err = 0 ∧ s.results = Results.zero
  /-- After a failure every result register but ERRINFO is 0 (R165, R146). -/
  failed : s.status.err ≠ 0 → s.results = { Results.zero with errinfo := s.results.errinfo }
  /-- A frame size is reported only after a successful ENCODE (R36): 10 more than PLEN, at most PACKET_MAX. -/
  sized : s.results.txlen ≠ 0 →
    s.status.err = 0 ∧ s.results.txlen.toNat = 10 + s.results.plen.toNat ∧
      s.results.txlen.toNat ≤ s.cfg.packetMax.toNat ∧
      s.results.rsv = Results.zero.rsv ∧ s.results.clock = 0
  /-- ERRINFO is 0 except after UnexpectedFrameType (R41). -/
  info : s.status.err ≠ 3 → s.results.errinfo = 0

end Sys2Proof.Machine
end

