-- ==== Sys2Proof/Certificates/Slice0/Obligations.lean ====
section
/-! DEFINITION. The statements for the provers, each from the numbered rules of spec/. -/

namespace Sys2Proof.Claims

open Sys2Proof.Machine

/-- Cell `a` of BUF. -/
abbrev bufAt (s : State) (a : Nat) : Byte := s.memRead .buf a

/-- Cell `a` of PAY. -/
abbrev payAt (s : State) (a : Nat) : Byte := s.memRead .pay a

/-- What no operation changes (60_exceptions.md R165: "STATUS.OVR, CMD, RXLEN and CAP are not written"), PAY, and
the model's own fields. -/
structure Kept (s t : State) : Prop where
  cfg : t.cfg = s.cfg
  cmd : t.cmd = s.cmd
  rxlen : t.rxlen = s.rxlen
  ovr : t.status.ovr = s.status.ovr
  pay : ∀ a, payAt t a = payAt s a
  epoch : t.epoch = s.epoch
  draws : t.draws = s.draws
  turns : t.turns = s.turns
  answer : t.answer = s.answer

/-- `t` is `s` after a completion with error code `e` and results `r` (R165); BUF is said apart. -/
structure Completed (s t : State) (e : BitVec 4) (r : Results) : Prop where
  results : t.results = r
  err : t.status.err = e
  busy : t.status.busy = false
  done : t.status.done = true
  kept : Kept s t

/-- The PTYPE, type code and priority columns of 30_encoding.md R82 for the four PacketTypes ENCODE can send. -/
def Codes (p : BitVec 3) (t q : Byte) : Prop :=
  (p = 0 ∧ t = 0x00 ∧ q = 0x02) ∨ (p = 2 ∧ t = 0x02 ∧ q = 0x02) ∨
    (p = 3 ∧ t = 0x02 ∧ q = 0x01) ∨ (p = 4 ∧ t = 0x03 ∧ q = 0x02)

/-- The PTYPE values with no frame (R82). -/
def NoFrame (p : BitVec 3) : Prop :=
  p = 1 ∨ p = 5 ∨ p = 6 ∨ p = 7

/-- PAY holds a payload of `n` bytes: its first zero byte is PAY[n] (41_frame_encoder.md R104). -/
def PayloadIs (s : State) (n : Nat) : Prop :=
  payAt s n = 0x00 ∧ ∀ j, j < n → payAt s j ≠ 0x00

/-- A frame with a payload of `n` bytes fits (R103). -/
def Fits (s : State) (n : Nat) : Prop :=
  10 + n ≤ s.cfg.packetMax.toNat

/-- `s` and `t` are the same but for what an answered read may change: the answer, and the count of draws. -/
def SameBlock (s t : State) : Prop :=
  t = { s with answer := t.answer, draws := t.draws }

/-- A read at REG offset `off` answers `v` and changes nothing of the block. -/
def ReadAnswers (s : State) (off : Nat) (v : Word) : Prop :=
  ∃ t, hostAccess (.regRead off) s = .next t ∧ SameBlock s t ∧ t.answer = .word v

/-- The bits of a register that are not reserved: the fields of 10_state.md R21. -/
def fieldMask : Reg → Word
  | .cmd => 0x00FF0703
  | .status => 0x00000F07
  | .rxlen => 0xFFFFFFFF
  | .txlen => 0xFFFFFFFF
  | .hdr => 0x00FFFFFF
  | .plen => 0xFFFFFFFF
  | .rsv => 0x00FFFFFF
  | .clock => 0x0000FFFF
  | .errinfo => 0x000000FF
  | .cap => 0xFFFFFFFF

/-- The read-only registers of 10_state.md R43. -/
def ReadOnly (r : Reg) : Prop :=
  r = .txlen ∨ r = .hdr ∨ r = .plen ∨ r = .rsv ∨ r = .clock ∨ r = .errinfo ∨ r = .cap

/-- The command word of a state: what a read of CMD returns. -/
def cmdWordOf (s : State) : Word := s.regValue .cmd

/-- The bytes of the worked example of 41_frame_encoder.md R114: the frame of `(ClientRegister, 7, "hello")`. -/
def helloFrame : List Byte :=
  [0x00, 0x00, 0x00, 0x00, 0x07, 0x02, 0x00, 0x00, 0x00, 0x05, 0x68, 0x65, 0x6C, 0x6C, 0x6F]

end Sys2Proof.Claims

open Sys2Proof Sys2Proof.Machine Sys2Proof.Claims

/-! ### The command word -/

/-- Decode and encode agree: every operation is read back from its word with every operand, and encoding what a word
decodes to gives the word with the bits that select nothing cleared (30_encoding.md sections 1 and 2). -/
def Obligations.DecodeOfEncodeIsIdentity : Prop :=
  (∀ i : Instr, decodeWord (encode i) = i) ∧
    ∀ w : Word, encode (decodeWord w) =
      if w &&& 0x00000003#32 = 0x00000000#32 then w &&& 0x00FF0703#32 else w &&& 0x00000003#32

/-- 30_encoding.md R83: the words of the three operations; the reserved bits select nothing, are ignored on a write
of CMD and read 0. -/
def Obligations.CommandWordLayout : Prop :=
  (∀ (p : BitVec 3) (snd : Byte),
      (encode (.encode p snd)).toNat = snd.toNat * 2 ^ 16 + p.toNat * 2 ^ 8) ∧
    encode .decodeHeader = 0x00000001#32 ∧ encode .decodeAck = 0x00000002#32 ∧
    (∀ w : Word, decodeWord (w &&& 0x00FF0703#32) = decodeWord w) ∧
    (∀ (s : State) (w : Word), hostAccess (.regWrite 0x00 w) s = hostAccess (.regWrite 0x00 (w &&& 0x00FF0703#32)) s) ∧
    ∀ s : State, cmdWordOf s &&& 0xFF00F8FC#32 = 0

/-- Every 32-bit word belongs to exactly one row of the opcode table, the row of the operation it decodes to
(30_encoding.md section 1, spec/opcode_table.json). -/
def Obligations.OpcodeRowsPartitionTheWords : Prop :=
  ∀ w : Word, (opcodeTable.filter (fun r => r.covers w)).map (fun r => r.mnemonic) = [(decodeWord w).mnemonic]

/-- A few words written out bit by bit from 30_encoding.md R83 decode to what they stand for (95_test_vectors.md E1,
E3, E12, H1, A1, I3). -/
def Obligations.WrittenOutWordsDecode : Prop :=
  decodeTableWord 32 0b00000000000001110000000000000000 = some (.encode 0 7) ∧
    decodeTableWord 32 0b00000000001010100000001100000000 = some (.encode 3 0x2A) ∧
    decodeTableWord 32 0b10101011000001011111110000000000 = some (.encode 4 5) ∧
    decodeTableWord 32 0b00000000000000000000000000000001 = some .decodeHeader ∧
    decodeTableWord 32 0b00000000000000000000000000000010 = some .decodeAck ∧
    decodeTableWord 32 0b00000000000000000000000000000011 = some .reservedOp3

/-! ### The step -/

/-- 60_exceptions.md R160: while BUSY = 1 the engine's step is the operation CMD.OP selects, on the whole state, and
it ends by completing; while BUSY = 0 the engine has no step. The model's choice, log entry 2: with no turn left the
engine moves, an engine turn at the head of the turns is taken off, and it passes on an idle block. -/
def Obligations.StepRunsTheCommandInFlight : Prop :=
  (∀ s : State, s.status.busy = true → s.turns = [] → step s = exec (decodeWord (cmdWordOf s)) s) ∧
    (∀ (s : State) (rest : List Turn), s.status.busy = true → s.turns = .engine :: rest →
      step s = exec (decodeWord (cmdWordOf s)) { s with turns := rest }) ∧
    (∀ s : State, decodeWord (cmdWordOf s) =
      if s.cmd.op = 0b00#2 then .encode s.cmd.ptype s.cmd.sender
      else if s.cmd.op = 0b01#2 then .decodeHeader
      else if s.cmd.op = 0b10#2 then .decodeAck
      else .reservedOp3) ∧
    (∀ s : State, s.status.busy = true →
      ∃ t, exec (decodeWord (cmdWordOf s)) s = .next t ∧ t.status.busy = false ∧ t.status.done = true ∧
        ∀ a, bufAt t a = bufAt s a ∨ s.cmd.op = 0b00#2) ∧
    (∀ s : State, s.status.busy = false → s.turns = [] → step s = .next s) ∧
    ∀ (s : State) (rest : List Turn), s.status.busy = false → s.turns = .engine :: rest →
      step s = .next { s with turns := rest }

/-- The step after `withFetchWord` runs exactly the instruction of the table word, on `s` with that word accepted in
CMD, BUSY set and DONE cleared, and nothing else changed (the model's fetch: log entry 8). -/
def Obligations.FetchWordIsRunNext : Prop :=
  ∀ (s : State) (nbits w : Nat) (i : Instr), decodeTableWord nbits w = some i →
    ∃ c : Cmd, c.toWord = BitVec.ofNat 32 (w % 2 ^ nbits) &&& 0x00FF0703#32 ∧
      step (s.withFetchWord nbits w) =
        exec i { s with cmd := c, status := { s.status with busy := true, done := false } }

/-- A host turn is that host access, a reset turn is reset, on the state with the turn taken off (20_memory.md
section 5; the turn list is the model's, log entry 2). -/
def Obligations.StepTakesTheNextTurn : Prop :=
  ∀ (s : State) (rest : List Turn),
    (∀ a : Access, s.turns = .host a :: rest → step s = hostAccess a { s with turns := rest }) ∧
      (s.turns = .reset :: rest → step s = .next ({ s with turns := rest } : State).resetBlock)

/-! ### ENCODE -/

/-- 41_frame_encoder.md R106: the ten header bytes of a successful ENCODE. -/
def Obligations.EncodeWritesTheHeader : Prop :=
  ∀ (s : State) (p : BitVec 3) (snd t q : Byte) (n : Nat), Codes p t q → PayloadIs s n → Fits s n →
    ∃ u, exec (.encode p snd) s = .next u ∧ u.status.err = 0 ∧
      bufAt u 0 = t ∧ bufAt u 1 = 0x00 ∧ bufAt u 2 = 0x00 ∧ bufAt u 3 = 0x00 ∧
      bufAt u 4 = snd ∧ bufAt u 5 = q ∧
      (bufAt u 6).toNat = n / 2 ^ 24 ∧ (bufAt u 7).toNat = n / 2 ^ 16 % 256 ∧
      (bufAt u 8).toNat = n / 2 ^ 8 % 256 ∧ (bufAt u 9).toNat = n % 256 ∧ n < 2 ^ 32

/-- 41_frame_encoder.md R107: the payload is copied to BUF[10..], BUF from index 10 + n on keeps its bytes, and every
cell below is written (it holds the same byte whatever BUF held before). -/
def Obligations.EncodeCopiesThePayload : Prop :=
  ∀ (s : State) (p : BitVec 3) (snd t q : Byte) (n : Nat), Codes p t q → PayloadIs s n → Fits s n →
    ∃ u, exec (.encode p snd) s = .next u ∧ u.status.err = 0 ∧
      (∀ j, j < n → bufAt u (10 + j) = payAt s j) ∧ (∀ a, 10 + n ≤ a → bufAt u a = bufAt s a) ∧
      ∀ buf' : Memory, ∃ u', exec (.encode p snd) { s with buf := buf' } = .next u' ∧
        ∀ a, a < 10 + n → bufAt u' a = bufAt u a

/-- 41_frame_encoder.md R108: the result registers of ENCODE, on success and on failure. -/
def Obligations.EncodeResultRegisters : Prop :=
  (∀ (s : State) (p : BitVec 3) (snd t q : Byte) (n : Nat), Codes p t q → PayloadIs s n → Fits s n →
    ∃ u, exec (.encode p snd) s = .next u ∧ u.results.txlen.toNat = 10 + n ∧
      u.results.hdr.typeCode = t ∧ u.results.hdr.sender = snd ∧ u.results.hdr.prio = q ∧
      u.results.hdr.toWord.toNat = q.toNat * 2 ^ 16 + snd.toNat * 2 ^ 8 + t.toNat ∧
      u.results.plen.toNat = n ∧ u.results.rsv = { b1 := 0, b2 := 0, b3 := 0 } ∧ u.results.clock = 0 ∧
      u.results.errinfo = 0 ∧ u.status.err = 0) ∧
    ∀ (s u : State) (p : BitVec 3) (snd : Byte), exec (.encode p snd) s = .next u → u.status.err ≠ 0 →
      u.results = { txlen := 0, hdr := { typeCode := 0, sender := 0, prio := 0 }, plen := 0,
                    rsv := { b1 := 0, b2 := 0, b3 := 0 }, clock := 0, errinfo := 0 }

/-- 30_encoding.md R82: the ENCODE outcome of every PTYPE: for 0, 2, 3 and 4 a frame with the type code and priority
of the table, where the payload fits, and InvalidPacketType for no payload; for 1, 5, 6 and 7 always
InvalidPacketType. -/
def Obligations.EncodeOutcomeByPacketType : Prop :=
  ∀ (s : State) (p : BitVec 3) (snd : Byte), ∃ u, exec (.encode p snd) s = .next u ∧
    (p = 1 ∨ p = 5 ∨ p = 6 ∨ p = 7 ↔ u.status.err = 4) ∧
    ∀ n, PayloadIs s n → Fits s n →
      (p = 0 → bufAt u 0 = 0x00 ∧ bufAt u 5 = 0x02 ∧ u.status.err = 0) ∧
      (p = 2 → bufAt u 0 = 0x02 ∧ bufAt u 5 = 0x02 ∧ u.status.err = 0) ∧
      (p = 3 → bufAt u 0 = 0x02 ∧ bufAt u 5 = 0x01 ∧ u.status.err = 0) ∧
      (p = 4 → bufAt u 0 = 0x03 ∧ bufAt u 5 = 0x02 ∧ u.status.err = 0)

/-- 41_frame_encoder.md R102: InvalidPacketType, before PAY is read (the outcome is the same whatever PAY holds) and
with BUF as it was. -/
def Obligations.EncodeRejectsInvalidPacketType : Prop :=
  ∀ (s : State) (p : BitVec 3) (snd : Byte), NoFrame p →
    ∃ u, exec (.encode p snd) s = .next u ∧ Completed s u 4 Results.zero ∧ (∀ a, bufAt u a = bufAt s a) ∧
      ∀ pay' : Memory, exec (.encode p snd) { s with pay := pay' } = .next { u with pay := pay' }

/-- 41_frame_encoder.md R103: with PACKET_MAX < 10 every ENCODE of a valid PTYPE is too large, an empty payload
included; otherwise the largest payload that fits is PACKET_MAX - 10 bytes. -/
def Obligations.EncodeSizeLimit : Prop :=
  (∀ (s : State) (p : BitVec 3) (snd t q : Byte), Codes p t q → s.cfg.packetMax.toNat < 10 →
    ∃ u, exec (.encode p snd) s = .next u ∧ u.status.err = 1) ∧
    ∀ (s : State) (p : BitVec 3) (snd t q : Byte) (n : Nat), Codes p t q → PayloadIs s n →
      ∃ u, exec (.encode p snd) s = .next u ∧
        (u.status.err = 0 ↔ (n : Int) ≤ (s.cfg.packetMax.toNat : Int) - 10) ∧
        (u.status.err = 1 ↔ s.cfg.packetMax.toNat < 10 + n)

/-- 41_frame_encoder.md R105: no zero byte among PAY[0..limit] is FrameTooLarge, whatever stands beyond. -/
def Obligations.EncodeRejectsLongPayload : Prop :=
  ∀ (s : State) (p : BitVec 3) (snd t q : Byte), Codes p t q →
    (∀ j, 10 + j ≤ s.cfg.packetMax.toNat → payAt s j ≠ 0x00) →
    ∃ u, exec (.encode p snd) s = .next u ∧ Completed s u 1 Results.zero ∧ ∀ a, bufAt u a = bufAt s a

/-- ENCODE ends in success exactly when its PTYPE has a frame and PAY holds a payload that fits (41_frame_encoder.md,
the pseudocode of ENCODE and its errors). -/
def Obligations.EncodeSucceedsExactlyWhenTheFrameFits : Prop :=
  ∀ (s u : State) (p : BitVec 3) (snd : Byte), exec (.encode p snd) s = .next u →
    (u.status.err = 0 ↔ ¬ NoFrame p ∧ ∃ n, PayloadIs s n ∧ Fits s n) ∧
      (u.status.err = 4 ↔ NoFrame p) ∧
      (u.status.err = 1 ↔ ¬ NoFrame p ∧ ¬ ∃ n, PayloadIs s n ∧ Fits s n)

/-- The frame of ENCODE: beside the result registers and STATUS.BUSY, DONE and ERR, only BUF[0 .. 9 + n] may change,
n being what `State.payloadLength` computes and only when the PTYPE has codes; where either is missing, no byte of
BUF changes. PAY and every other register keep their values. -/
def Obligations.EncodeChangesOnlyItsFrame : Prop :=
  ∀ (s u : State) (p : BitVec 3) (snd : Byte), exec (.encode p snd) s = .next u →
    Kept s u ∧ u.status.busy = false ∧ u.status.done = true ∧
      (∀ (c : Byte × Byte) (n : Nat), selectCodes p = some c → s.payloadLength = some n →
        ∀ a, 10 + n ≤ a → bufAt u a = bufAt s a) ∧
      (selectCodes p = none ∨ s.payloadLength = none → ∀ a, bufAt u a = bufAt s a)

/-- 41_frame_encoder.md R111: bytes of PAY after the terminator do not affect the outcome: two states that agree on
everything but PAY, and on PAY up to its first zero byte, end in states that agree on everything but PAY. -/
def Obligations.EncodeIgnoresBytesAfterTheTerminator : Prop :=
  ∀ (s : State) (pay' : Memory) (p : BitVec 3) (snd : Byte) (n : Nat), PayloadIs s n →
    (∀ j, j ≤ n → payAt { s with pay := pay' } j = payAt s j) →
    ∃ u, exec (.encode p snd) s = .next u ∧
      exec (.encode p snd) { s with pay := pay' } = .next { u with pay := pay' }

/-- 41_frame_encoder.md R112: a heartbeat and a status frame of the same sender and payload differ in byte 5 alone. -/
def Obligations.HeartbeatDiffersFromStatusInPriorityAlone : Prop :=
  ∀ (s : State) (snd : Byte) (n : Nat), PayloadIs s n → Fits s n →
    ∃ h u, exec (.encode 3 snd) s = .next h ∧ exec (.encode 2 snd) s = .next u ∧
      bufAt h 0 = 0x02 ∧ bufAt h 5 = 0x01 ∧ bufAt u 0 = 0x02 ∧ bufAt u 5 = 0x02 ∧
      ∀ a, a ≠ 5 → bufAt h a = bufAt u a

/-- 41_frame_encoder.md R114: the source's worked example. -/
def Obligations.EncodeWorkedExample : Prop :=
  ∀ s : State, 15 ≤ s.cfg.packetMax.toNat →
    payAt s 0 = 0x68 → payAt s 1 = 0x65 → payAt s 2 = 0x6C → payAt s 3 = 0x6C → payAt s 4 = 0x6F → payAt s 5 = 0x00 →
    ∃ u, exec (decodeWord 0x00070000#32) s = .next u ∧
      (List.range 15).map (bufAt u) = helloFrame ∧ u.results.txlen = 0x0000000F#32 ∧
      u.results.hdr.toWord = 0x00020700#32 ∧ u.results.plen = 0x00000005#32 ∧ u.status.err = 0

/-- 42_frame_decoder.md R135: ENCODE, then WR RXLEN with TXLEN, then DECODE_HEADER recovers HDR and the payload
length, with RSV 0. Between them stand any idle states of the same block (`u'` before the write of RXLEN, `v'` before
DECODE_HEADER) that keep BUF[0..9] and, from its write on, RXLEN. -/
def Obligations.EncodeThenDecodeHeaderRoundTrip : Prop :=
  ∀ (s : State) (p : BitVec 3) (snd t q : Byte) (n : Nat), Codes p t q → PayloadIs s n → Fits s n →
    ∃ u, exec (.encode p snd) s = .next u ∧ u.status.err = 0 ∧
      u.results.hdr = { typeCode := t, sender := snd, prio := q } ∧
      ∀ u' : State, u'.cfg = s.cfg → u'.status.busy = false → (∀ a, a < 10 → bufAt u' a = bufAt u a) →
        ∃ v, hostAccess (.regWrite 0x08 u.results.txlen) u' = .next v ∧
          ∀ v' : State, v'.rxlen = v.rxlen → v'.status.busy = false → (∀ a, a < 10 → bufAt v' a = bufAt v a) →
            ∃ w x, hostAccess (.regWrite 0x00 0x00000001#32) v' = .next w ∧ engineStep w = .next x ∧
              x.status.err = 0 ∧ x.results.hdr = u.results.hdr ∧ x.results.plen.toNat = n ∧
              x.results.rsv = { b1 := 0, b2 := 0, b3 := 0 }

/-! ### DECODE_HEADER -/

/-- 42_frame_decoder.md R131, R132: with 10 bytes or more DECODE_HEADER succeeds whatever they are, and reports them
as received, the length as a big-endian u32. -/
def Obligations.DecodeHeaderReportsTheHeader : Prop :=
  ∀ s : State, 10 ≤ s.rxlen.toNat →
    ∃ u, exec .decodeHeader s = .next u ∧ Completed s u 0 u.results ∧ (∀ a, bufAt u a = bufAt s a) ∧
      u.results.txlen = 0 ∧
      u.results.hdr = { typeCode := bufAt s 0, sender := bufAt s 4, prio := bufAt s 5 } ∧
      u.results.plen.toNat =
        (bufAt s 6).toNat * 2 ^ 24 + (bufAt s 7).toNat * 2 ^ 16 + (bufAt s 8).toNat * 2 ^ 8 + (bufAt s 9).toNat ∧
      u.results.rsv = { b1 := bufAt s 1, b2 := bufAt s 2, b3 := bufAt s 3 } ∧
      u.results.clock = 0 ∧ u.results.errinfo = 0

/-- 42_frame_decoder.md R133: with fewer than 10 bytes DECODE_HEADER raises IncompleteFrame and reads no byte of BUF
(the outcome is the same whatever BUF holds). -/
def Obligations.DecodeHeaderShortIsIncomplete : Prop :=
  ∀ s : State, s.rxlen.toNat < 10 →
    ∃ u, exec .decodeHeader s = .next u ∧ Completed s u 2 Results.zero ∧ (∀ a, bufAt u a = bufAt s a) ∧
      ∀ buf' : Memory, exec .decodeHeader { s with buf := buf' } = .next { u with buf := buf' }

/-- 42_frame_decoder.md R134: the ten header bytes alone decide the results; neither the payload nor how many bytes
beyond ten arrived matters. -/
def Obligations.DecodeHeaderNeedsTheHeaderAlone : Prop :=
  ∀ (s : State) (buf' : Memory) (k : Word), 10 ≤ s.rxlen.toNat → 10 ≤ k.toNat →
    (∀ a, a < 10 → bufAt { s with buf := buf' } a = bufAt s a) →
    ∃ u, exec .decodeHeader s = .next u ∧ u.status.err = 0 ∧
      exec .decodeHeader { s with buf := buf', rxlen := k } = .next { u with buf := buf', rxlen := k }

/-! ### DECODE_ACK -/

/-- 42_frame_decoder.md R142: the sender of a valid ack is BUF[1], its type 0x02, its priority 0. -/
def Obligations.DecodeAckExtractsTheSender : Prop :=
  ∀ s : State, 6 ≤ s.rxlen.toNat → bufAt s 0 = 0x02 →
    ∃ u, exec .decodeAck s = .next u ∧ Completed s u 0 u.results ∧ (∀ a, bufAt u a = bufAt s a) ∧
      u.results.hdr = { typeCode := 0x02, sender := bufAt s 1, prio := 0 } ∧
      u.results.hdr.toWord.toNat = (bufAt s 1).toNat * 2 ^ 8 + 2 ∧
      u.results.txlen = 0 ∧ u.results.plen = 0 ∧ u.results.rsv = { b1 := 0, b2 := 0, b3 := 0 } ∧
      u.results.errinfo = 0

/-- 42_frame_decoder.md R143: the clock value, as a number and bit by bit. -/
def Obligations.DecodeAckClockValue : Prop :=
  ∀ s : State, 6 ≤ s.rxlen.toNat → bufAt s 0 = 0x02 →
    ∃ u, exec .decodeAck s = .next u ∧
      u.results.clock.toNat =
        ((bufAt s 2).toNat * 2 ^ 12 ||| (bufAt s 3).toNat * 2 ^ 8 ||| (bufAt s 4).toNat * 2 ^ 4 ||| (bufAt s 5).toNat)
          % 2 ^ 16 ∧
      u.results.clock.extractLsb' 12 4 = (bufAt s 2).extractLsb' 0 4 ||| (bufAt s 3).extractLsb' 4 4 ∧
      u.results.clock.extractLsb' 8 4 = (bufAt s 3).extractLsb' 0 4 ||| (bufAt s 4).extractLsb' 4 4 ∧
      u.results.clock.extractLsb' 4 4 = (bufAt s 4).extractLsb' 0 4 ||| (bufAt s 5).extractLsb' 4 4 ∧
      u.results.clock.extractLsb' 0 4 = (bufAt s 5).extractLsb' 0 4 ∧
      ∀ b : Byte, b.extractLsb' 0 4 = (bufAt s 2).extractLsb' 0 4 →
        exec .decodeAck { s with buf := s.buf.set 2 b } = .next { u with buf := s.buf.set 2 b }

/-- 42_frame_decoder.md R141: a first byte other than 0x02 is UnexpectedFrameType, with that byte in ERRINFO. -/
def Obligations.DecodeAckRejectsOtherTypes : Prop :=
  ∀ s : State, 6 ≤ s.rxlen.toNat → bufAt s 0 ≠ 0x02 →
    ∃ u, exec .decodeAck s = .next u ∧
      Completed s u 3 { txlen := 0, hdr := { typeCode := 0, sender := 0, prio := 0 }, plen := 0,
                        rsv := { b1 := 0, b2 := 0, b3 := 0 }, clock := 0, errinfo := bufAt s 0 } ∧
      ∀ a, bufAt u a = bufAt s a

/-- 42_frame_decoder.md R145: with fewer than 6 bytes DECODE_ACK raises IncompleteFrame whatever BUF holds. -/
def Obligations.DecodeAckShortIsIncomplete : Prop :=
  ∀ s : State, s.rxlen.toNat < 6 →
    ∃ u, exec .decodeAck s = .next u ∧ Completed s u 2 Results.zero ∧ (∀ a, bufAt u a = bufAt s a) ∧
      ∀ buf' : Memory, exec .decodeAck { s with buf := buf' } = .next { u with buf := buf' }

/-- 42_frame_decoder.md R146: no partial state after a failed DECODE_ACK. -/
def Obligations.DecodeAckLeavesNoPartialState : Prop :=
  ∀ s u : State, exec .decodeAck s = .next u → u.status.err ≠ 0 →
    u.results.txlen = 0 ∧ u.results.hdr.toWord = 0 ∧ u.results.plen = 0 ∧ u.results.rsv.toWord = 0 ∧
      u.results.clock = 0 ∧ (u.status.err ≠ 3 → u.results.errinfo = 0)

/-- 42_frame_decoder.md R144: DECODE_ACK reads BUF[0..5] only. -/
def Obligations.DecodeAckReadsSixBytes : Prop :=
  ∀ (s : State) (buf' : Memory) (k : Word), 6 ≤ s.rxlen.toNat → 6 ≤ k.toNat →
    (∀ a, a < 6 → bufAt { s with buf := buf' } a = bufAt s a) →
    ∃ u, exec .decodeAck s = .next u ∧
      exec .decodeAck { s with buf := buf', rxlen := k } = .next { u with buf := buf', rxlen := k }

/-- 42_frame_decoder.md R149: the source's worked examples. -/
def Obligations.DecodeAckWorkedExamples : Prop :=
  (∀ s : State, s.rxlen = 6 → bufAt s 0 = 0x02 → bufAt s 1 = 0x05 → bufAt s 2 = 0x00 → bufAt s 3 = 0x10 →
    bufAt s 4 = 0x00 → bufAt s 5 = 0x03 →
    ∃ u, exec .decodeAck s = .next u ∧ u.results.hdr.toWord = 0x00000502#32 ∧ u.results.clock = 0x1003#16 ∧
      u.status.err = 0) ∧
    ∀ s : State, bufAt s 0 = 0x01 →
      ∃ u, exec .decodeAck s = .next u ∧
        (6 ≤ s.rxlen.toNat → u.status.err = 3 ∧ u.results = { Results.zero with errinfo := 0x01 }) ∧
        (s.rxlen.toNat < 6 → u.status.err = 2 ∧ u.results = Results.zero)

/-- 42_frame_decoder.md R147: neither decoder writes BUF or PAY or changes RXLEN; every other register but the
results and STATUS.BUSY, DONE and ERR keeps its value too. -/
def Obligations.DecodersHaveNoSideEffects : Prop :=
  ∀ (i : Instr) (s u : State), i = .decodeHeader ∨ i = .decodeAck → exec i s = .next u →
    Kept s u ∧ u.rxlen = s.rxlen ∧ (∀ a, bufAt u a = bufAt s a) ∧ ∀ a, payAt u a = payAt s a

/-! ### The reserved operation, completion, errors -/

/-- 60_exceptions.md R163: OP = 0b11 is accepted, reads and writes no memory, completes with ERR = 5 and every result
0; on an idle block with OVR = 0, STATUS then reads 0x502. -/
def Obligations.ReservedOperationIsIllegalCommand : Prop :=
  (∀ s : State, ∃ u, exec .reservedOp3 s = .next u ∧ Completed s u 5 Results.zero ∧
    (∀ a, bufAt u a = bufAt s a) ∧
    ∀ buf' pay' : Memory,
      exec .reservedOp3 { s with buf := buf', pay := pay' } = .next { u with buf := buf', pay := pay' }) ∧
    ∀ s : State, s.status.busy = false → s.status.ovr = false →
      ∃ v x, hostAccess (.regWrite 0x00 0x00000003#32) s = .next v ∧ v.status.busy = true ∧
        engineStep v = .next x ∧ x.regValue .status = 0x00000502#32 ∧ x.results = Results.zero ∧
        (∀ a, bufAt x a = bufAt s a) ∧ ∀ a, payAt x a = payAt s a

/-- 60_exceptions.md R165: every operation ends in one completion, in every state; OVR, CMD, RXLEN and CAP are not
written, all results are 0 on failure except ERRINFO of UnexpectedFrameType, and no earlier result survives (the
results do not depend on what the result registers or STATUS held). -/
def Obligations.EveryOperationCompletes : Prop :=
  ∀ (i : Instr) (s : State), ∃ u, exec i s = .next u ∧
    u.status.busy = false ∧ u.status.done = true ∧ Kept s u ∧
    (u.status.err ≠ 0 → u.results = { Results.zero with errinfo := u.results.errinfo } ∧
      (u.status.err ≠ 3 → u.results.errinfo = 0)) ∧
    ∀ (r : Results) (st : Status),
      exec i { s with results := r, status := st } =
        .next { u with status := { u.status with ovr := st.ovr } }

/-- 60_exceptions.md R161, R166: the code in STATUS.ERR after each operation, the first condition that applies, and
what ERRINFO then holds; no other code is ever left, and the command stays readable in CMD. -/
def Obligations.ErrorCodeOfEachOperation : Prop :=
  (∀ (s u : State) (p : BitVec 3) (snd : Byte), exec (.encode p snd) s = .next u →
    u.results.errinfo = 0 ∧
    (NoFrame p → u.status.err = 4) ∧
    (¬ NoFrame p → (∀ n, PayloadIs s n → ¬ Fits s n) → u.status.err = 1) ∧
    (∀ n, ¬ NoFrame p → PayloadIs s n → Fits s n → u.status.err = 0)) ∧
    (∀ s u : State, exec .decodeHeader s = .next u →
      u.results.errinfo = 0 ∧ u.status.err = if s.rxlen.toNat < 10 then 2 else 0) ∧
    (∀ s u : State, exec .decodeAck s = .next u →
      u.status.err = (if s.rxlen.toNat < 6 then 2 else if bufAt s 0 ≠ 0x02 then 3 else 0) ∧
      u.results.errinfo = if u.status.err = 3 then bufAt s 0 else 0) ∧
    (∀ s u : State, exec .reservedOp3 s = .next u → u.results.errinfo = 0 ∧ u.status.err = 5) ∧
    ∀ (i : Instr) (s u : State), exec i s = .next u → u.status.err.toNat ≤ 5 ∧ cmdWordOf u = cmdWordOf s

/-- 60_exceptions.md R168: a failing operation writes no memory; its only effect is the completion. And a byte of BUF
that differs after an operation is a byte of the frame of a successful ENCODE. -/
def Obligations.FailingOperationWritesNoMemory : Prop :=
  (∀ (i : Instr) (s u : State), exec i s = .next u → u.status.err ≠ 0 →
    u = { s with results := u.results
                 status := { s.status with busy := false, done := true, err := u.status.err } }) ∧
    ∀ (i : Instr) (s u : State) (a : Nat), exec i s = .next u → bufAt u a ≠ bufAt s a →
      (∃ p snd, i = .encode p snd) ∧ u.status.err = 0 ∧ a < u.results.txlen.toNat ∧ a < s.cfg.packetMax.toNat

/-- 30_encoding.md R85: the reserved and illegal command encodings. -/
def Obligations.ReservedEncodings : Prop :=
  (∀ w : Word, opField w = 0b11#2 → ∀ s : State, s.status.busy = false →
    ∃ v x, hostAccess (.regWrite 0x00 w) s = .next v ∧ engineStep v = .next x ∧ x.status.err = 5 ∧
      (∀ a, bufAt x a = bufAt s a) ∧ ∀ a, payAt x a = payAt s a) ∧
    (∀ w : Word, opField w = 0b00#2 → NoFrame (ptypeField w) → ∀ s : State, s.status.busy = false →
      ∃ v x, hostAccess (.regWrite 0x00 w) s = .next v ∧ engineStep v = .next x ∧ x.status.err = 4 ∧
        (∀ a, bufAt x a = bufAt s a) ∧ ∀ a, payAt x a = payAt s a) ∧
    (∀ w w' : Word, opField w = opField w' → opField w = 0b01#2 ∨ opField w = 0b10#2 →
      decodeWord w = decodeWord w') ∧
    ∀ w w' : Word, w &&& 0x00FF0703#32 = w' &&& 0x00FF0703#32 → ∀ s : State,
      hostAccess (.regWrite 0x00 w) s = hostAccess (.regWrite 0x00 w') s

/-! ### Host accesses -/

/-- 10_state.md R33: a command write while idle is accepted; while BUSY = 1 it only sets OVR. -/
def Obligations.CommandWriteAcceptance : Prop :=
  ∀ (s : State) (w : Word),
    (s.status.busy = false → ∃ t, hostAccess (.regWrite 0x00 w) s = .next t ∧
      t.regValue .cmd = w &&& 0x00FF0703#32 ∧ t.status.done = false ∧ t.status.busy = true ∧
      t = { s with cmd := t.cmd, status := { s.status with busy := true, done := false }, answer := .none }) ∧
      (s.status.busy = true → hostAccess (.regWrite 0x00 w) s =
        .next { s with status := { s.status with ovr := true }, answer := .none })

/-- 10_state.md R26: CMD holds the last accepted command word, masked: a read returns it, busy or idle; only an
accepted write and reset change it; after reset it reads 0; the engine executes what it holds. -/
def Obligations.CommandRegisterHoldsTheLastAcceptedCommand : Prop :=
  (∀ s t : State, step s = .next t →
    cmdWordOf t = cmdWordOf s ∨
      (∃ w rest, s.turns = .host (.regWrite 0x00 w) :: rest ∧ s.status.busy = false ∧
        cmdWordOf t = w &&& 0x00FF0703#32) ∨
      (∃ rest, s.turns = .reset :: rest ∧ cmdWordOf t = 0)) ∧
    (∀ s : State, ∃ t, hostAccess (.regRead 0x00) s = .next t ∧ t.answer = .word (cmdWordOf s)) ∧
    (∀ s t : State, s.status.busy = true → step s = .next t → t.status.busy = true → cmdWordOf t = cmdWordOf s) ∧
    cmdWordOf State.reset = 0 ∧
    ∀ s : State, s.status.busy = true → engineStep s = exec (decodeWord (cmdWordOf s)) s

/-- 10_state.md R31: OVR is set by a command write while BUSY = 1, cleared only by a STATUS write with bit 2 or by
reset, read by no operation, and no bar to acceptance. -/
def Obligations.OverrunIsSticky : Prop :=
  (∀ (s t : State) (w : Word) (rest : List Turn), s.turns = .host (.regWrite 0x00 w) :: rest →
    s.status.busy = true → step s = .next t → t.status.ovr = true) ∧
    (∀ s t : State, s.status.ovr = true → step s = .next t → t.status.ovr = false →
      (∃ w rest, s.turns = .host (.regWrite 0x04 w) :: rest ∧ w.getLsbD 2 = true) ∨
      ∃ rest, s.turns = .reset :: rest) ∧
    (∀ s t : State, s.status.ovr = false → step s = .next t → t.status.ovr = true →
      ∃ w rest, s.turns = .host (.regWrite 0x00 w) :: rest ∧ s.status.busy = true) ∧
    (∀ (i : Instr) (s u : State) (b : Bool), exec i s = .next u →
      exec i { s with status := { s.status with ovr := b } } =
        .next { u with status := { u.status with ovr := b } }) ∧
    (∀ (s : State) (w : Word), s.status.busy = false → s.status.ovr = true →
      ∃ t, hostAccess (.regWrite 0x00 w) s = .next t ∧ t.status.busy = true ∧ t.status.ovr = true) ∧
    State.reset.status.ovr = false

/-- 10_state.md R34: a STATUS write clears OVR if bit 2 is 1, and does nothing else. -/
def Obligations.StatusWriteClearsOnlyOvr : Prop :=
  ∀ (s : State) (w : Word), hostAccess (.regWrite 0x04 w) s =
    .next { s with status := { s.status with ovr := s.status.ovr && !w.getLsbD 2 }, answer := .none }

/-- 10_state.md R35: RXLEN stores min(w, PACKET_MAX) and reads back; ENCODE neither reads nor writes it; reset 0. -/
def Obligations.RxlenStoresTheMinimum : Prop :=
  (∀ (s : State) (w : Word), s.status.busy = false →
    ∃ t u, hostAccess (.regWrite 0x08 w) s = .next t ∧
      t.rxlen.toNat = min w.toNat s.cfg.packetMax.toNat ∧ t = { s with rxlen := t.rxlen, answer := .none } ∧
      hostAccess (.regRead 0x08) t = .next u ∧ u.answer = .word t.rxlen) ∧
    (∀ (s u : State) (p : BitVec 3) (snd : Byte) (k : Word), exec (.encode p snd) s = .next u →
      u.rxlen = s.rxlen ∧ exec (.encode p snd) { s with rxlen := k } = .next { u with rxlen := k }) ∧
    State.reset.rxlen = 0

/-- 10_state.md R43: a write to a read-only register completes and changes nothing. -/
def Obligations.ReadOnlyWritesHaveNoEffect : Prop :=
  ∀ (s : State) (r : Reg) (w : Word), ReadOnly r →
    hostAccess (.regWrite r.offset w) s = .next { s with answer := .none }

/-- 10_state.md R44: a register read answers a word whose reserved bits are 0; idle it is the register's value; while
BUSY = 1, CMD, RXLEN, CAP and STATUS.BUSY, DONE and OVR are exact, and the rest of the word is the draw (log entry 5).
The fields stand at the bits of 10_state.md section 1, each register at its offset there: CMD, RXLEN, CAP and the flags
of STATUS at all times, ERR and the result registers on an idle block. -/
def Obligations.RegisterReads : Prop :=
  (∀ (s : State) (r : Reg), ∃ v, ReadAnswers s r.offset v ∧ v &&& ~~~fieldMask r = 0 ∧
    (s.status.busy = false → hostAccess (.regRead r.offset) s = .next { s with answer := .word (s.regValue r) }) ∧
    (r = .cmd ∨ r = .rxlen ∨ r = .cap → v = s.regValue r) ∧
    (r = .status → v &&& 0x00000007#32 = s.regValue .status &&& 0x00000007#32) ∧
    (s.status.busy = true → r = .status → v &&& 0x00000F00#32 = Config.busyWord s.draws &&& 0x00000F00#32) ∧
    (s.status.busy = true → ReadOnly r → r ≠ .cap → v = Config.busyWord s.draws &&& fieldMask r)) ∧
    (∀ s : State, ∃ v, ReadAnswers s 0x00 v ∧
      v.toNat = s.cmd.sender.toNat * 2 ^ 16 + s.cmd.ptype.toNat * 2 ^ 8 + s.cmd.op.toNat) ∧
    (∀ s : State, ∃ v, ReadAnswers s 0x04 v ∧ v.getLsbD 0 = s.status.busy ∧ v.getLsbD 1 = s.status.done ∧
      v.getLsbD 2 = s.status.ovr ∧ (s.status.busy = false → v.extractLsb' 8 4 = s.status.err)) ∧
    (∀ s : State, ReadAnswers s 0x08 s.rxlen ∧ ReadAnswers s 0x24 s.cfg.packetMax) ∧
    ∀ s : State, s.status.busy = false →
      ReadAnswers s 0x0C s.results.txlen ∧
      (∃ v, ReadAnswers s 0x10 v ∧ v.toNat =
        s.results.hdr.prio.toNat * 2 ^ 16 + s.results.hdr.sender.toNat * 2 ^ 8 + s.results.hdr.typeCode.toNat) ∧
      ReadAnswers s 0x14 s.results.plen ∧
      (∃ v, ReadAnswers s 0x18 v ∧ v.toNat =
        s.results.rsv.b3.toNat * 2 ^ 16 + s.results.rsv.b2.toNat * 2 ^ 8 + s.results.rsv.b1.toNat) ∧
      (∃ v, ReadAnswers s 0x1C v ∧ v.toNat = s.results.clock.toNat) ∧
      ∃ v, ReadAnswers s 0x20 v ∧ v.toNat = s.results.errinfo.toNat

/-- 20_memory.md R52: every REG offset but the ten of R51 raises BusError, read or written; the ten never do. -/
def Obligations.RegisterOffsets : Prop :=
  ∀ (s : State) (off : Nat) (w : Word),
    (off ∉ [0x00, 0x04, 0x08, 0x0C, 0x10, 0x14, 0x18, 0x1C, 0x20, 0x24] →
      hostAccess (.regRead off) s = .fault (.busError .reg off) ∧
        hostAccess (.regWrite off w) s = .fault (.busError .reg off)) ∧
      (off ∈ [0x00, 0x04, 0x08, 0x0C, 0x10, 0x14, 0x18, 0x1C, 0x20, 0x24] →
        (∃ t, hostAccess (.regRead off) s = .next t) ∧
          ((∃ t, hostAccess (.regWrite off w) s = .next t) ∨
            hostAccess (.regWrite off w) s = .fault (.hostHazard .rxlen)))

/-- 20_memory.md R53: BufRead and BufWrite inside BUF, on an idle block, and BusError outside it in every state. -/
def Obligations.BufAccesses : Prop :=
  (∀ (s : State) (i : Nat), i < s.cfg.packetMax.toNat → s.status.busy = false →
    hostAccess (.bufRead i) s = .next { s with answer := .byte (bufAt s i) }) ∧
    (∀ (s : State) (i : Nat) (v : Byte), i < s.cfg.packetMax.toNat → s.status.busy = false →
      ∃ t, hostAccess (.bufWrite i v) s = .next t ∧ t = { s with buf := t.buf, answer := .none } ∧
        bufAt t i = v ∧ ∀ a, a ≠ i → bufAt t a = bufAt s a) ∧
    (∀ (s : State) (i : Nat) (v : Byte), s.cfg.packetMax.toNat ≤ i →
      hostAccess (.bufRead i) s = .fault (.busError .buf i) ∧
        hostAccess (.bufWrite i v) s = .fault (.busError .buf i)) ∧
    ∀ (s : State) (i : Nat) (v : Byte), s.cfg.packetMax = 0 →
      hostAccess (.bufRead i) s = .fault (.busError .buf i) ∧
        hostAccess (.bufWrite i v) s = .fault (.busError .buf i)

/-- 20_memory.md R54: PayRead and PayWrite inside PAY, on an idle block, and BusError outside it in every state. -/
def Obligations.PayAccesses : Prop :=
  (∀ (s : State) (i : Nat), i < s.cfg.payBytes →
    hostAccess (.payRead i) s = .next { s with answer := .byte (payAt s i) }) ∧
    (∀ (s : State) (i : Nat) (v : Byte), i < s.cfg.payBytes → s.status.busy = false →
      ∃ t, hostAccess (.payWrite i v) s = .next t ∧ t = { s with pay := t.pay, answer := .none } ∧
        payAt t i = v ∧ ∀ a, a ≠ i → payAt t a = payAt s a) ∧
    ∀ (s : State) (i : Nat) (v : Byte), s.cfg.payBytes ≤ i →
      hostAccess (.payRead i) s = .fault (.busError .pay i) ∧
        hostAccess (.payWrite i v) s = .fault (.busError .pay i)

/-- 70_reset_and_hazards.md R195: a host write of BUF, PAY or RXLEN while BUSY = 1 is the fault HostHazard. -/
def Obligations.OperandWriteWhileBusyIsAHazard : Prop :=
  ∀ s : State, s.status.busy = true →
    (∀ (i : Nat) (v : Byte), i < s.cfg.packetMax.toNat → hostAccess (.bufWrite i v) s = .fault (.hostHazard .buf)) ∧
      (∀ (i : Nat) (v : Byte), i < s.cfg.payBytes → hostAccess (.payWrite i v) s = .fault (.hostHazard .pay)) ∧
      ∀ w : Word, hostAccess (.regWrite 0x08 w) s = .fault (.hostHazard .rxlen)

/-- 70_reset_and_hazards.md R196: while BUSY = 1, a read of a result register or of STATUS.ERR is a draw; a BUF read
is a draw while an ENCODE is in flight and exact while a decoder or the reserved operation is; a PAY read is exact at
all times, idle too. -/
def Obligations.ReadsWhileBusy : Prop :=
  (∀ (s : State) (r : Reg), s.status.busy = true → ReadOnly r → r ≠ .cap →
    ∃ t, hostAccess (.regRead r.offset) s = .next t ∧ SameBlock s t ∧
      t.answer = .word (Config.busyWord s.draws &&& fieldMask r)) ∧
    (∀ s : State, s.status.busy = true →
      ∃ t v, hostAccess (.regRead 0x04) s = .next t ∧ SameBlock s t ∧ t.answer = .word v ∧
        v &&& 0x00000F00#32 = Config.busyWord s.draws &&& 0x00000F00#32) ∧
    (∀ (s : State) (i : Nat), s.status.busy = true → i < s.cfg.packetMax.toNat →
      (s.cmd.op = 0b00#2 → ∃ t, hostAccess (.bufRead i) s = .next t ∧ SameBlock s t ∧
        t.answer = .byte (Config.busyByte s.draws)) ∧
      (s.cmd.op ≠ 0b00#2 → hostAccess (.bufRead i) s = .next { s with answer := .byte (bufAt s i) })) ∧
    ∀ (s : State) (i : Nat), i < s.cfg.payBytes →
      hostAccess (.payRead i) s = .next { s with answer := .byte (payAt s i) }

/-- A host access gets through exactly when it is in range and is no operand write while BUSY = 1; otherwise it
faults (60_exceptions.md section 7, 20_memory.md section 1, 70_reset_and_hazards.md section 3). -/
def Obligations.AccessGetsThroughExactlyWhenSafe : Prop :=
  ∀ (a : Access) (s : State),
    ((∃ t, hostAccess a s = .next t) ↔ Access.safe s.cfg s.status.busy a = true) ∧
      (Access.safe s.cfg s.status.busy a = false → ∃ f, hostAccess a s = .fault f)

/-- 10_state.md R42: CAP reads PACKET_MAX at all times, a write to it does nothing, and no step changes it. -/
def Obligations.CapIsHardwired : Prop :=
  (∀ s : State, ∃ t, hostAccess (.regRead 0x24) s = .next t ∧ t.answer = .word s.cfg.packetMax) ∧
    (∀ (s : State) (w : Word), hostAccess (.regWrite 0x24 w) s = .next { s with answer := .none }) ∧
    ∀ s t : State, step s = .next t → t.cfg = s.cfg

/-- 30_encoding.md R90: the host access each line of a host program stands for; the word of `ENCODE <ptype>, <sender>`
decodes to that operation; the names of PTYPE and the registers' offsets are those of R90 and 10_state.md R21. -/
def Obligations.HostProgramNotation : Prop :=
  (∀ ptype sender : Nat, ptype ≤ 7 → sender ≤ 255 →
    ∃ w : Word, HostLine.turns (.encode ptype sender) = [.host (.regWrite 0x00 w)] ∧
      w.toNat = sender * 2 ^ 16 + ptype * 2 ^ 8 ∧
      decodeWord w = .encode (BitVec.ofNat 3 ptype) (BitVec.ofNat 8 sender)) ∧
    (∃ w : Word, HostLine.turns .decodeHeader = [.host (.regWrite 0x00 w)] ∧ w = 1 ∧ decodeWord w = .decodeHeader) ∧
    (∃ w : Word, HostLine.turns .decodeAck = [.host (.regWrite 0x00 w)] ∧ w = 2 ∧ decodeWord w = .decodeAck) ∧
    (∀ w, HostLine.turns (.cmdRaw w) = [.host (.regWrite 0x00 w)]) ∧
    (∀ r w, HostLine.turns (.wr r w) = [.host (.regWrite r.offset w)]) ∧
    (∀ r, HostLine.turns (.rd r) = [.host (.regRead r.offset)]) ∧
    (∀ i v, HostLine.turns (.wrBuf i v) = [.host (.bufWrite i v)]) ∧
    (∀ i, HostLine.turns (.rdBuf i) = [.host (.bufRead i)]) ∧
    (∀ i v, HostLine.turns (.wrPay i v) = [.host (.payWrite i v)]) ∧
    (∀ i, HostLine.turns (.rdPay i) = [.host (.payRead i)]) ∧
    (PtypeName.number .register = 0 ∧ PtypeName.number .serverAck = 1 ∧ PtypeName.number .status = 2 ∧
      PtypeName.number .heartbeat = 3 ∧ PtypeName.number .image = 4) ∧
    (∀ r : Reg, regAt r.offset = some r) ∧
    Reg.offset .cmd = 0x00 ∧ Reg.offset .status = 0x04 ∧ Reg.offset .rxlen = 0x08 ∧ Reg.offset .txlen = 0x0C ∧
    Reg.offset .hdr = 0x10 ∧ Reg.offset .plen = 0x14 ∧ Reg.offset .rsv = 0x18 ∧ Reg.offset .clock = 0x1C ∧
    Reg.offset .errinfo = 0x20 ∧ Reg.offset .cap = 0x24

/-- LOADPAY and LOADBUF on an idle block (30_encoding.md section 4): a well-formed LOADPAY leaves exactly its string
as the payload, a well-formed LOADBUF leaves its bytes at the start of BUF and their count in RXLEN. -/
def Obligations.LoadPseudoCommandsLoad : Prop :=
  (∀ (s : State) (bs : List Byte), s.status.busy = false → s.turns = HostLine.turns (.loadPay bs) →
    (HostLine.loadPay bs).wellFormed s.cfg = true →
    ∃ t, Sys2Proof.core.run (bs.length + 1) s = .next t ∧ t.turns = [] ∧ PayloadIs t bs.length ∧
      ∀ j (h : j < bs.length), payAt t j = bs[j]) ∧
    ∀ (s : State) (bs : List Byte), s.status.busy = false → s.turns = HostLine.turns (.loadBuf bs) →
      (HostLine.loadBuf bs).wellFormed s.cfg = true →
      ∃ t, Sys2Proof.core.run (bs.length + 1) s = .next t ∧ t.turns = [] ∧ t.rxlen.toNat = bs.length ∧
        ∀ j (h : j < bs.length), bufAt t j = bs[j]

/-- CLROVR and WAIT (30_encoding.md section 4). CLROVR clears OVR alone. WAIT on a busy block (the model's line carries
the number of polls that find BUSY = 1, log entry 12) reads BUSY = 1 at each of them, then BUSY = 0 and DONE = 1 with the
whole effect of the command in flight; if no host turn follows, the run has then ended (70_reset_and_hazards.md section
4). On an idle block WAIT changes nothing but the answer, which says BUSY = 0. -/
def Obligations.WaitAndClrOvr : Prop :=
  (∀ (s : State) (rest : List Turn), s.turns = HostLine.turns .clrOvr ++ rest →
    step s = .next { s with turns := rest, status := { s.status with ovr := false }, answer := .none }) ∧
    (∀ (s u : State) (k : Nat) (rest : List Turn), s.status.busy = true → s.turns = HostLine.turns (.wait k) ++ rest →
      exec (decodeWord (cmdWordOf s)) s = .next u →
      (∀ j, j < k → ∃ t v, Sys2Proof.core.run (j + 1) s = .next t ∧ t.status.busy = true ∧ t.answer = .word v ∧
        v.getLsbD 0 = true) ∧
      ∃ t v, Sys2Proof.core.run (k + 2) s = .next t ∧
        t = { u with turns := rest, draws := t.draws, answer := .word v } ∧
        t.status.busy = false ∧ t.status.done = true ∧ v.getLsbD 0 = false ∧ v.getLsbD 1 = true ∧
        v.extractLsb' 8 4 = u.status.err ∧ ((∀ a, Turn.host a ∉ rest) → RunEnded t)) ∧
    ∀ (s : State) (k : Nat) (rest : List Turn), s.status.busy = false → s.turns = HostLine.turns (.wait k) ++ rest →
      ∃ t v, Sys2Proof.core.run (k + 2) s = .next t ∧ t = { s with turns := rest, answer := .word v } ∧
        v.getLsbD 0 = false

/-! ### Reset -/

/-- 70_reset_and_hazards.md R190: reset, at any time, an operation in flight included, leaves every register at its
reset value, CAP at PACKET_MAX, and no operation in flight. -/
def Obligations.ResetClearsEveryRegister : Prop :=
  ∀ (s : State) (rest : List Turn), s.turns = .reset :: rest →
    ∃ t, step s = .next t ∧
      (∀ r : Reg, r ≠ .cap → t.regValue r = 0) ∧ t.regValue .cap = s.cfg.packetMax ∧
      t.status.busy = false ∧ t.status.done = false ∧ t.cfg = s.cfg ∧ t.turns = rest ∧
      engineStep t = .next t

/-- The machine right after reset reads as 10_state.md section 1 says: every register 0, CAP = PACKET_MAX. -/
def Obligations.ResetStateRegisters : Prop :=
  (∀ r : Reg, r ≠ .cap → State.reset.regValue r = 0) ∧ State.reset.regValue .cap = Config.packetMax ∧
    State.reset.status.busy = false

/-! ### Invariants and the whole machine -/

/-- The invariant holds after reset (70_reset_and_hazards.md section 1; the model's own fields as log entries 2 to 5
say). -/
def Obligations.ResetMeetsTheInvariant : Prop :=
  Inv State.reset

/-- Every step keeps the invariant: canonical memories inside their ranges, RXLEN at most PACKET_MAX, ERR at most 5,
BUSY and DONE never both, reset values while nothing has been done, results that fit their error code. -/
def Obligations.StepKeepsTheInvariant : Prop :=
  ∀ s t : State, Inv s → step s = .next t → Inv t

/-- 10_state.md R29, R30: BUSY rises only at the acceptance of a command and falls only at a completion or reset;
DONE rises only at a completion and falls only at an acceptance or reset. -/
def Obligations.BusyAndDoneChangeOnlyAtTheirEvents : Prop :=
  ∀ s t : State, step s = .next t →
    (s.status.busy = false → t.status.busy = true →
      (∃ w rest, s.turns = .host (.regWrite 0x00 w) :: rest) ∧ t.status.done = false) ∧
    (s.status.busy = true → t.status.busy = false →
      (∃ rest, s.turns = .reset :: rest) ∨
        (t.status.done = true ∧ ∃ rest, exec (decodeWord (cmdWordOf s)) { s with turns := rest } = .next t)) ∧
    (s.status.done = false → t.status.done = true → s.status.busy = true ∧ t.status.busy = false) ∧
    (s.status.done = true → t.status.done = false →
      (∃ rest, s.turns = .reset :: rest) ∨
        ((∃ w rest, s.turns = .host (.regWrite 0x00 w) :: rest) ∧ t.status.busy = true))

/-- PAY is changed by the host alone, BUF by the host and by a successful ENCODE, and reset makes both unspecified
(10_state.md section 4, 70_reset_and_hazards.md section 1). That a write of the host that gets through is made while
BUSY = 0 rests on 70_reset_and_hazards.md section 3 and on log entry 6: the run stops at a write while BUSY = 1. -/
def Obligations.WhoChangesTheMemories : Prop :=
  ∀ s t : State, step s = .next t →
    (∃ rest, s.turns = .reset :: rest) ∨
      ((∀ a, payAt t a = payAt s a ∨
        ∃ rest, s.turns = .host (.payWrite a (payAt t a)) :: rest ∧ s.status.busy = false) ∧
      ∀ a, bufAt t a = bufAt s a ∨
        (∃ rest, s.turns = .host (.bufWrite a (bufAt t a)) :: rest ∧ s.status.busy = false) ∨
        (s.status.busy = true ∧ s.cmd.op = 0b00#2 ∧ t.status.err = 0 ∧ t.status.done = true ∧
          a < t.results.txlen.toNat))

/-- An operation in flight completes, with the results it would have had at once, however many safe host accesses
come first (70_reset_and_hazards.md section 4, 20_memory.md section 5). The finite list of turns is the model's
(log entry 2). -/
def Obligations.OperationInFlightCompletes : Prop :=
  ∀ s u : State, s.status.busy = true →
    (∀ x ∈ s.turns, ∃ a, x = .host a ∧ Access.safe s.cfg true a = true) →
    exec (decodeWord (cmdWordOf s)) s = .next u →
    ∃ t, Sys2Proof.core.run (s.turns.length + 1) s = .next t ∧ t.turns = [] ∧ RunEnded t ∧ t.status.done = true ∧
      t.status.err = u.status.err ∧ t.results = u.results ∧
      (∀ a, bufAt t a = bufAt u a) ∧ (∀ a, payAt t a = payAt u a) ∧ t.cmd = s.cmd ∧ t.rxlen = s.rxlen
end

