-- ==== Sys2Proof/Laws/State.lean ====
section
/-! SUPPORT. The fields of the state after each named operation, one lemma per field per update, so that no proof unfolds a record update. -/

namespace Sys2Proof.Machine

variable (s : State)

section Accept

@[simp] theorem State.accept_cfg (w : Word) : (s.accept w).cfg = s.cfg := rfl
@[simp] theorem State.accept_cmd (w : Word) : (s.accept w).cmd = Cmd.ofWord w := rfl
@[simp] theorem State.accept_status (w : Word) : (s.accept w).status = s.status.accepted := rfl
@[simp] theorem State.accept_rxlen (w : Word) : (s.accept w).rxlen = s.rxlen := rfl
@[simp] theorem State.accept_results (w : Word) : (s.accept w).results = s.results := rfl
@[simp] theorem State.accept_buf (w : Word) : (s.accept w).buf = s.buf := rfl
@[simp] theorem State.accept_pay (w : Word) : (s.accept w).pay = s.pay := rfl
@[simp] theorem State.accept_epoch (w : Word) : (s.accept w).epoch = s.epoch := rfl
@[simp] theorem State.accept_draws (w : Word) : (s.accept w).draws = s.draws := rfl
@[simp] theorem State.accept_turns (w : Word) : (s.accept w).turns = s.turns := rfl
@[simp] theorem State.accept_answer (w : Word) : (s.accept w).answer = s.answer := rfl

end Accept

section Complete

@[simp] theorem State.complete_cfg (e : ErrCode) (r : Results) : (s.complete e r).cfg = s.cfg := rfl
@[simp] theorem State.complete_cmd (e : ErrCode) (r : Results) : (s.complete e r).cmd = s.cmd := rfl
@[simp] theorem State.complete_status (e : ErrCode) (r : Results) : (s.complete e r).status = s.status.completed e := rfl
@[simp] theorem State.complete_rxlen (e : ErrCode) (r : Results) : (s.complete e r).rxlen = s.rxlen := rfl
@[simp] theorem State.complete_results (e : ErrCode) (r : Results) : (s.complete e r).results = r := rfl
@[simp] theorem State.complete_buf (e : ErrCode) (r : Results) : (s.complete e r).buf = s.buf := rfl
@[simp] theorem State.complete_pay (e : ErrCode) (r : Results) : (s.complete e r).pay = s.pay := rfl
@[simp] theorem State.complete_epoch (e : ErrCode) (r : Results) : (s.complete e r).epoch = s.epoch := rfl
@[simp] theorem State.complete_draws (e : ErrCode) (r : Results) : (s.complete e r).draws = s.draws := rfl
@[simp] theorem State.complete_turns (e : ErrCode) (r : Results) : (s.complete e r).turns = s.turns := rfl
@[simp] theorem State.complete_answer (e : ErrCode) (r : Results) : (s.complete e r).answer = s.answer := rfl

end Complete

section Raise

@[simp] theorem State.raise_cfg (e : ErrCode) (info : Byte) : (s.raise e info).cfg = s.cfg := rfl
@[simp] theorem State.raise_cmd (e : ErrCode) (info : Byte) : (s.raise e info).cmd = s.cmd := rfl
@[simp] theorem State.raise_status (e : ErrCode) (info : Byte) : (s.raise e info).status = s.status.completed e := rfl
@[simp] theorem State.raise_rxlen (e : ErrCode) (info : Byte) : (s.raise e info).rxlen = s.rxlen := rfl
@[simp] theorem State.raise_results (e : ErrCode) (info : Byte) : (s.raise e info).results = { Results.zero with errinfo := info } := rfl
@[simp] theorem State.raise_buf (e : ErrCode) (info : Byte) : (s.raise e info).buf = s.buf := rfl
@[simp] theorem State.raise_pay (e : ErrCode) (info : Byte) : (s.raise e info).pay = s.pay := rfl
@[simp] theorem State.raise_epoch (e : ErrCode) (info : Byte) : (s.raise e info).epoch = s.epoch := rfl
@[simp] theorem State.raise_draws (e : ErrCode) (info : Byte) : (s.raise e info).draws = s.draws := rfl
@[simp] theorem State.raise_turns (e : ErrCode) (info : Byte) : (s.raise e info).turns = s.turns := rfl
@[simp] theorem State.raise_answer (e : ErrCode) (info : Byte) : (s.raise e info).answer = s.answer := rfl

end Raise

section Answered

@[simp] theorem State.answered_cfg (a : Answer) : (s.answered a).cfg = s.cfg := rfl
@[simp] theorem State.answered_cmd (a : Answer) : (s.answered a).cmd = s.cmd := rfl
@[simp] theorem State.answered_status (a : Answer) : (s.answered a).status = s.status := rfl
@[simp] theorem State.answered_rxlen (a : Answer) : (s.answered a).rxlen = s.rxlen := rfl
@[simp] theorem State.answered_results (a : Answer) : (s.answered a).results = s.results := rfl
@[simp] theorem State.answered_buf (a : Answer) : (s.answered a).buf = s.buf := rfl
@[simp] theorem State.answered_pay (a : Answer) : (s.answered a).pay = s.pay := rfl
@[simp] theorem State.answered_epoch (a : Answer) : (s.answered a).epoch = s.epoch := rfl
@[simp] theorem State.answered_draws (a : Answer) : (s.answered a).draws = s.draws := rfl
@[simp] theorem State.answered_turns (a : Answer) : (s.answered a).turns = s.turns := rfl
@[simp] theorem State.answered_answer (a : Answer) : (s.answered a).answer = a := rfl

end Answered

section Drew

@[simp] theorem State.drew_cfg : s.drew.cfg = s.cfg := rfl
@[simp] theorem State.drew_cmd : s.drew.cmd = s.cmd := rfl
@[simp] theorem State.drew_status : s.drew.status = s.status := rfl
@[simp] theorem State.drew_rxlen : s.drew.rxlen = s.rxlen := rfl
@[simp] theorem State.drew_results : s.drew.results = s.results := rfl
@[simp] theorem State.drew_buf : s.drew.buf = s.buf := rfl
@[simp] theorem State.drew_pay : s.drew.pay = s.pay := rfl
@[simp] theorem State.drew_epoch : s.drew.epoch = s.epoch := rfl
@[simp] theorem State.drew_draws : s.drew.draws = s.draws + 1 := rfl
@[simp] theorem State.drew_turns : s.drew.turns = s.turns := rfl
@[simp] theorem State.drew_answer : s.drew.answer = s.answer := rfl

end Drew

section WriteFrame

@[simp] theorem State.writeFrame_cfg (bs : List Byte) : (s.writeFrame bs).cfg = s.cfg := rfl
@[simp] theorem State.writeFrame_cmd (bs : List Byte) : (s.writeFrame bs).cmd = s.cmd := rfl
@[simp] theorem State.writeFrame_status (bs : List Byte) : (s.writeFrame bs).status = s.status := rfl
@[simp] theorem State.writeFrame_rxlen (bs : List Byte) : (s.writeFrame bs).rxlen = s.rxlen := rfl
@[simp] theorem State.writeFrame_results (bs : List Byte) : (s.writeFrame bs).results = s.results := rfl
@[simp] theorem State.writeFrame_buf (bs : List Byte) : (s.writeFrame bs).buf = s.buf.setList 0 bs := rfl
@[simp] theorem State.writeFrame_pay (bs : List Byte) : (s.writeFrame bs).pay = s.pay := rfl
@[simp] theorem State.writeFrame_epoch (bs : List Byte) : (s.writeFrame bs).epoch = s.epoch := rfl
@[simp] theorem State.writeFrame_draws (bs : List Byte) : (s.writeFrame bs).draws = s.draws := rfl
@[simp] theorem State.writeFrame_turns (bs : List Byte) : (s.writeFrame bs).turns = s.turns := rfl
@[simp] theorem State.writeFrame_answer (bs : List Byte) : (s.writeFrame bs).answer = s.answer := rfl

end WriteFrame

section ResetBlock

@[simp] theorem State.resetBlock_cfg : s.resetBlock.cfg = s.cfg := rfl
@[simp] theorem State.resetBlock_cmd : s.resetBlock.cmd = State.reset.cmd := rfl
@[simp] theorem State.resetBlock_status : s.resetBlock.status = State.reset.status := rfl
@[simp] theorem State.resetBlock_rxlen : s.resetBlock.rxlen = State.reset.rxlen := rfl
@[simp] theorem State.resetBlock_results : s.resetBlock.results = Results.zero := rfl
@[simp] theorem State.resetBlock_buf : s.resetBlock.buf = [] := rfl
@[simp] theorem State.resetBlock_pay : s.resetBlock.pay = [] := rfl
@[simp] theorem State.resetBlock_epoch : s.resetBlock.epoch = s.epoch + 1 := rfl
@[simp] theorem State.resetBlock_draws : s.resetBlock.draws = s.draws := rfl
@[simp] theorem State.resetBlock_turns : s.resetBlock.turns = s.turns := rfl
@[simp] theorem State.resetBlock_answer : s.resetBlock.answer = .none := rfl

end ResetBlock

section MemWriteBuf

@[simp] theorem State.memWrite_buf_cfg (i : Nat) (v : Byte) : (s.memWrite .buf i v).cfg = s.cfg := rfl
@[simp] theorem State.memWrite_buf_cmd (i : Nat) (v : Byte) : (s.memWrite .buf i v).cmd = s.cmd := rfl
@[simp] theorem State.memWrite_buf_status (i : Nat) (v : Byte) : (s.memWrite .buf i v).status = s.status := rfl
@[simp] theorem State.memWrite_buf_rxlen (i : Nat) (v : Byte) : (s.memWrite .buf i v).rxlen = s.rxlen := rfl
@[simp] theorem State.memWrite_buf_results (i : Nat) (v : Byte) : (s.memWrite .buf i v).results = s.results := rfl
@[simp] theorem State.memWrite_buf_buf (i : Nat) (v : Byte) : (s.memWrite .buf i v).buf = s.buf.set i v := rfl
@[simp] theorem State.memWrite_buf_pay (i : Nat) (v : Byte) : (s.memWrite .buf i v).pay = s.pay := rfl
@[simp] theorem State.memWrite_buf_epoch (i : Nat) (v : Byte) : (s.memWrite .buf i v).epoch = s.epoch := rfl
@[simp] theorem State.memWrite_buf_draws (i : Nat) (v : Byte) : (s.memWrite .buf i v).draws = s.draws := rfl
@[simp] theorem State.memWrite_buf_turns (i : Nat) (v : Byte) : (s.memWrite .buf i v).turns = s.turns := rfl
@[simp] theorem State.memWrite_buf_answer (i : Nat) (v : Byte) : (s.memWrite .buf i v).answer = s.answer := rfl

end MemWriteBuf

section MemWritePay

@[simp] theorem State.memWrite_pay_cfg (i : Nat) (v : Byte) : (s.memWrite .pay i v).cfg = s.cfg := rfl
@[simp] theorem State.memWrite_pay_cmd (i : Nat) (v : Byte) : (s.memWrite .pay i v).cmd = s.cmd := rfl
@[simp] theorem State.memWrite_pay_status (i : Nat) (v : Byte) : (s.memWrite .pay i v).status = s.status := rfl
@[simp] theorem State.memWrite_pay_rxlen (i : Nat) (v : Byte) : (s.memWrite .pay i v).rxlen = s.rxlen := rfl
@[simp] theorem State.memWrite_pay_results (i : Nat) (v : Byte) : (s.memWrite .pay i v).results = s.results := rfl
@[simp] theorem State.memWrite_pay_buf (i : Nat) (v : Byte) : (s.memWrite .pay i v).buf = s.buf := rfl
@[simp] theorem State.memWrite_pay_pay (i : Nat) (v : Byte) : (s.memWrite .pay i v).pay = s.pay.set i v := rfl
@[simp] theorem State.memWrite_pay_epoch (i : Nat) (v : Byte) : (s.memWrite .pay i v).epoch = s.epoch := rfl
@[simp] theorem State.memWrite_pay_draws (i : Nat) (v : Byte) : (s.memWrite .pay i v).draws = s.draws := rfl
@[simp] theorem State.memWrite_pay_turns (i : Nat) (v : Byte) : (s.memWrite .pay i v).turns = s.turns := rfl
@[simp] theorem State.memWrite_pay_answer (i : Nat) (v : Byte) : (s.memWrite .pay i v).answer = s.answer := rfl

end MemWritePay

section StatusUpdates

variable (t : Status)

@[simp] theorem Status.accepted_busy : (t.accepted).busy = true := rfl
@[simp] theorem Status.accepted_done : (t.accepted).done = false := rfl
@[simp] theorem Status.accepted_ovr : (t.accepted).ovr = t.ovr := rfl
@[simp] theorem Status.accepted_err : (t.accepted).err = t.err := rfl
@[simp] theorem Status.overrun_busy : (t.overrun).busy = t.busy := rfl
@[simp] theorem Status.overrun_done : (t.overrun).done = t.done := rfl
@[simp] theorem Status.overrun_ovr : (t.overrun).ovr = true := rfl
@[simp] theorem Status.overrun_err : (t.overrun).err = t.err := rfl
@[simp] theorem Status.completed_busy (e : ErrCode) : (t.completed e).busy = false := rfl
@[simp] theorem Status.completed_done (e : ErrCode) : (t.completed e).done = true := rfl
@[simp] theorem Status.completed_ovr (e : ErrCode) : (t.completed e).ovr = t.ovr := rfl
@[simp] theorem Status.completed_err (e : ErrCode) : (t.completed e).err = e.code := rfl
@[simp] theorem Status.hostWritten_busy (w : Word) : (t.hostWritten w).busy = t.busy := by
  unfold Status.hostWritten; split <;> rfl
@[simp] theorem Status.hostWritten_done (w : Word) : (t.hostWritten w).done = t.done := by
  unfold Status.hostWritten; split <;> rfl
@[simp] theorem Status.hostWritten_err (w : Word) : (t.hostWritten w).err = t.err := by
  unfold Status.hostWritten; split <;> rfl

/-- 10_state.md R34: bit 2 clears OVR, every other bit is ignored. -/
@[simp] theorem Status.hostWritten_ovr (w : Word) : (t.hostWritten w).ovr = (t.ovr && !w.getLsbD 2) := by
  unfold Status.hostWritten; split <;> simp_all

end StatusUpdates

end Sys2Proof.Machine
end

