-- ==== Sys2Proof/Laws/Memory.lean ====
section
/-! SUPPORT. The laws of a byte memory: a read after a write, a write leaves every other cell alone, and every memory operation keeps the canonical form. -/

namespace Sys2Proof.Machine

/-- A read after a write: the written cell holds the value, every other cell is as before. -/
theorem Memory.get?_set (m : Memory) (i j : Nat) (v : Byte) :
    (m.set i v).get? j = if j = i then some v else m.get? j := by
  induction m with
  | nil => simp only [Memory.set, Memory.get?]; grind
  | cons c rest ih => obtain ⟨a, u⟩ := c; simp only [Memory.set, Memory.get?]; grind [Memory.get?]

/-- The entries of `m.set i v`: the new one, and old ones. -/
theorem Memory.mem_set {m : Memory} {i : Nat} {v : Byte} {c : Host.Cell} (h : c ∈ m.set i v) :
    c = (i, v) ∨ c ∈ m := by
  induction m with
  | nil => simpa [Memory.set] using h
  | cons d rest ih => obtain ⟨a, u⟩ := d; simp only [Memory.set] at h; grind

/-- A write keeps the canonical form. -/
theorem Memory.set_wf {m : Memory} (h : m.wf) (i : Nat) (v : Byte) : (m.set i v).wf := by
  induction m with
  | nil => simp [Memory.set]
  | cons d rest ih =>
    obtain ⟨a, u⟩ := d
    obtain ⟨ha, hr⟩ := List.pairwise_cons.mp h
    simp only [Memory.set]
    split
    · refine List.pairwise_cons.mpr ⟨fun c hc => ?_, h⟩
      rcases List.mem_cons.mp hc with rfl | hc
      · assumption
      · have := ha c hc; simp only at *; omega
    · split
      · subst_vars; exact List.pairwise_cons.mpr ⟨ha, hr⟩
      · refine List.pairwise_cons.mpr ⟨fun c hc => ?_, ih hr⟩
        rcases Memory.mem_set hc with rfl | hc
        · simp only at *; omega
        · exact ha c hc

/-- What cells hold after successive writes from index `i`. -/
theorem Memory.get?_setList (m : Memory) (i j : Nat) (bs : List Byte) :
    (m.setList i bs).get? j = if i ≤ j ∧ j < i + bs.length then bs[j - i]? else m.get? j := by
  induction bs generalizing m i with
  | nil => simp [Memory.setList]
  | cons b rest ih =>
    rw [Memory.setList, ih, Memory.get?_set]
    rcases Nat.lt_trichotomy j i with h | rfl | h
    · rw [if_neg (by omega), if_neg (by omega), if_neg (by omega)]
    · rw [if_neg (by omega), if_pos rfl, if_pos (by simp)]; simp
    · have e : j - i = (j - (i + 1)) + 1 := by omega
      by_cases hj : j < i + 1 + rest.length
      · rw [if_pos (by omega), if_pos (by simp; omega), e, List.getElem?_cons_succ]
      · rw [if_neg (by omega), if_neg (by omega), if_neg (by simp; omega)]

/-- The entries of `m.setList i bs`: old ones, and cells of the written range. -/
theorem Memory.mem_setList {m : Memory} {i : Nat} {bs : List Byte} {c : Host.Cell} (h : c ∈ m.setList i bs) :
    c ∈ m ∨ (i ≤ c.1 ∧ c.1 < i + bs.length) := by
  induction bs generalizing m i with
  | nil => exact .inl h
  | cons b rest ih =>
    rcases ih h with h | h
    · rcases Memory.mem_set h with rfl | h
      · right; simp
      · exact .inl h
    · right; simp; omega

/-- Successive writes keep the canonical form. -/
theorem Memory.setList_wf {m : Memory} (h : m.wf) (i : Nat) (bs : List Byte) : (m.setList i bs).wf := by
  induction bs generalizing m i with
  | nil => exact h
  | cons b rest ih => exact ih (Memory.set_wf h i b) (i + 1)

/-- The memory of the reset state is in its canonical form: nothing is listed. -/
theorem State.reset_mem_wf : State.reset.buf.wf ∧ State.reset.pay.wf :=
  ⟨List.Pairwise.nil, List.Pairwise.nil⟩

section Reads

variable (s : State) (sp : MemSpace) (i j : Nat)

@[simp] theorem State.memRead_accept (w : Word) : (s.accept w).memRead sp i = s.memRead sp i := by cases sp <;> rfl

@[simp] theorem State.memRead_complete (e : ErrCode) (r : Results) :
    (s.complete e r).memRead sp i = s.memRead sp i := by cases sp <;> rfl

@[simp] theorem State.memRead_raise (e : ErrCode) (info : Byte) :
    (s.raise e info).memRead sp i = s.memRead sp i := by cases sp <;> rfl

@[simp] theorem State.memRead_answered (a : Answer) : (s.answered a).memRead sp i = s.memRead sp i := by
  cases sp <;> rfl

@[simp] theorem State.memRead_drew : s.drew.memRead sp i = s.memRead sp i := by cases sp <;> rfl

/-- A frame written into BUF leaves PAY alone. -/
@[simp] theorem State.memRead_writeFrame_pay (bs : List Byte) :
    (s.writeFrame bs).memRead .pay i = s.memRead .pay i := rfl

/-- The cells of BUF after a frame has been written: the frame, and beyond it the old bytes. -/
theorem State.memRead_writeFrame_buf (bs : List Byte) :
    (s.writeFrame bs).memRead .buf i = bs.getD i (s.memRead .buf i) := by
  have h := Memory.get?_setList s.buf 0 i bs
  simp only [State.memRead, State.writeFrame, State.unlistedByte, h]
  by_cases hi : i < bs.length
  · simp [hi]
  · simp [hi]

/-- 20_memory.md R53, R54: a host write reaches its own cell of its own memory and nothing else. -/
theorem State.memRead_memWrite (sp' : MemSpace) (v : Byte) :
    (s.memWrite sp i v).memRead sp' j = if sp' = sp ∧ j = i then v else s.memRead sp' j := by
  cases sp <;> cases sp' <;>
    simp only [State.memRead, State.memWrite, State.unlistedByte, Memory.get?_set] <;> split <;> simp_all

end Reads

end Sys2Proof.Machine
end

