-- ==== Sys2Proof/Laws/Operands.lean ====
section
/-! SUPPORT. The laws of the operand forms: the fields of a command word, the big-endian u32, the terminator scan, the frame bytes, and the bits of the clock value. -/

namespace Sys2Proof

section Fields

variable (op : BitVec 2) (p : BitVec 3) (snd : Byte) (w : Word)

@[simp] theorem opField_cmdWord : opField (cmdWord op p snd) = op := by
  ext i hi
  interval_cases i <;> simp [opField, cmdWord, zext32]

@[simp] theorem ptypeField_cmdWord : ptypeField (cmdWord op p snd) = p := by
  ext i hi
  interval_cases i <;> simp [ptypeField, cmdWord, zext32]

@[simp] theorem senderField_cmdWord : senderField (cmdWord op p snd) = snd := by
  ext i hi
  interval_cases i <;> simp [senderField, cmdWord, zext32]

/-- 10_state.md R26: the kept fields of `w`, put together again, are `w & 0x00FF0703`. -/
theorem cmdWord_fields : cmdWord (opField w) (ptypeField w) (senderField w) = w &&& cmdMask := by
  ext i hi
  interval_cases i <;> simp [cmdWord, opField, ptypeField, senderField, cmdMask, zext32]

/-- The mask of every row of the opcode table keeps OP (30_encoding.md R81). -/
theorem and_rowMask : w &&& 0x00000003#32 = zext32 (opField w) := by
  ext i hi
  interval_cases i <;> simp [opField, zext32]

/-- The reserved bits of an assembled command word are 0 (30_encoding.md R83). -/
theorem cmdWord_reserved : cmdWord op p snd &&& ~~~cmdMask = 0 := by
  have h := cmdWord_fields (cmdWord op p snd)
  rw [opField_cmdWord, ptypeField_cmdWord, senderField_cmdWord] at h
  have hm : cmdMask &&& ~~~cmdMask = 0 := by decide
  rw [h, BitVec.and_assoc, hm]
  simp

end Fields

namespace Machine

/-- CMD keeps the fields of a written word. -/
theorem Cmd.toWord_ofWord (w : Word) : (Cmd.ofWord w).toWord = w &&& cmdMask :=
  cmdWord_fields w

/-- CMD.OP decides the operation, and PTYPE and SENDER are ENCODE's operands: decoding CMD is decoding its fields. -/
theorem decodeWord_toWord (c : Cmd) :
    decodeWord c.toWord =
      if c.op = 0b00#2 then .encode c.ptype c.sender
      else if c.op = 0b01#2 then .decodeHeader
      else if c.op = 0b10#2 then .decodeAck
      else .reservedOp3 := by
  simp [decodeWord, Cmd.toWord]

/-- Decoding what CMD kept of `w` is decoding `w` (30_encoding.md R83: the reserved bits select nothing). -/
theorem decodeWord_ofWord (w : Word) : decodeWord (Cmd.ofWord w).toWord = decodeWord w := by
  rw [decodeWord_toWord]; rfl

section Scan

variable (read : Nat → Byte)

/-- 41_frame_encoder.md R104: the scan finds `n` exactly when `n` is the first zero byte of the range. -/
theorem firstZero_eq_some {i count n : Nat} :
    firstZero read i count = some n ↔
      i ≤ n ∧ n < i + count ∧ read n = 0 ∧ ∀ j, i ≤ j → j < n → read j ≠ 0 := by
  induction count generalizing i with
  | zero => simp [firstZero]; omega
  | succ k ih =>
    rw [firstZero]
    split
    · rename_i h
      constructor
      · intro e; cases e; exact ⟨le_rfl, by omega, h, fun j _ _ => by omega⟩
      · rintro ⟨h1, -, -, h4⟩
        rcases Nat.lt_or_ge i n with hlt | hge
        · exact absurd h (h4 i le_rfl hlt)
        · exact congrArg some (by omega)
    · rename_i h
      rw [ih]
      constructor
      · rintro ⟨h1, h2, h3, h4⟩
        refine ⟨by omega, by omega, h3, fun j hj hn => ?_⟩
        rcases Nat.eq_or_lt_of_le hj with rfl | hj
        · exact h
        · exact h4 j hj hn
      · rintro ⟨h1, h2, h3, h4⟩
        have : n ≠ i := by rintro rfl; exact h h3
        exact ⟨by omega, by omega, h3, fun j hj hn => h4 j (by omega) hn⟩

/-- R105: the scan finds nothing exactly when no byte of the range is zero. -/
theorem firstZero_eq_none {i count : Nat} :
    firstZero read i count = none ↔ ∀ j, i ≤ j → j < i + count → read j ≠ 0 := by
  induction count generalizing i with
  | zero => simp [firstZero]; intros; omega
  | succ k ih =>
    rw [firstZero]
    split
    · rename_i h
      simp only [reduceCtorEq, false_iff, not_forall]
      exact ⟨i, le_rfl, by omega, fun hn => hn h⟩
    · rename_i h
      rw [ih]
      constructor
      · intro hall j hj hn
        rcases Nat.eq_or_lt_of_le hj with rfl | hj
        · exact h
        · exact hall j hj (by omega)
      · intro hall j hj hn
        exact hall j (by omega) (by omega)

end Scan

/-- R103, R104: ENCODE finds a payload of `n` bytes exactly when its frame fits and `n` is the first zero byte of PAY. -/
theorem State.payloadLength_eq_some (s : State) (n : Nat) :
    s.payloadLength = some n ↔
      10 + n ≤ s.cfg.packetMax.toNat ∧ s.memRead .pay n = 0 ∧ ∀ j, j < n → s.memRead .pay j ≠ 0 := by
  unfold State.payloadLength State.payloadLimit
  split
  · rename_i h; simp only [reduceCtorEq, false_iff]; omega
  · rename_i h
    rw [firstZero_eq_some]
    constructor
    · rintro ⟨-, h2, h3, h4⟩; exact ⟨by omega, h3, fun j hj => h4 j (Nat.zero_le j) hj⟩
    · rintro ⟨h1, h2, h3⟩; exact ⟨Nat.zero_le n, by omega, h2, fun j _ hj => h3 j hj⟩

/-- R103, R105: FrameTooLarge exactly when no index that leaves room for the header holds a zero byte. -/
theorem State.payloadLength_eq_none (s : State) :
    s.payloadLength = none ↔
      ∀ j, 10 + j ≤ s.cfg.packetMax.toNat → s.memRead .pay j ≠ 0 := by
  unfold State.payloadLength State.payloadLimit
  split
  · rename_i h; simp only [true_iff]; intro j hj; omega
  · rename_i h
    rw [firstZero_eq_none]
    constructor
    · intro hall j hj; exact hall j (Nat.zero_le j) (by omega)
    · intro hall j _ hj; exact hall j (by omega)

@[simp] theorem State.payload_length (s : State) (n : Nat) : (s.payload n).length = n := by
  simp [State.payload]

@[simp] theorem frameBytes_length (t snd q : Byte) (p : List Byte) :
    (frameBytes t snd q p).length = 10 + p.length := by
  simp [frameBytes, be32]; omega

/-- Beyond the header the frame is the payload (R107). -/
theorem frameBytes_payload (t snd q : Byte) (p : List Byte) (j : Nat) :
    (frameBytes t snd q p)[10 + j]? = p[j]? := by
  have : 10 + j = j + 1 + 1 + 1 + 1 + 1 + 1 + 1 + 1 + 1 + 1 := by omega
  simp [frameBytes, be32, this]

/-- `BE32^-1` as the number R14 gives it. -/
theorem fromBe32_toNat (a b c d : Byte) :
    (fromBe32 a b c d).toNat = a.toNat * 2 ^ 24 + b.toNat * 2 ^ 16 + c.toNat * 2 ^ 8 + d.toNat := by
  have ha := a.isLt; have hb := b.isLt; have hc := c.isLt; have hd := d.isLt
  have e1 : a.toNat <<< 24 ||| b.toNat <<< 16 = (a.toNat * 256 + b.toNat) <<< 16 := by
    have h : a.toNat <<< 24 = (a.toNat <<< 8) <<< 16 := by rw [← Nat.shiftLeft_add]
    rw [h, ← Nat.shiftLeft_or_distrib, ← Nat.shiftLeft_add_eq_or_of_lt (by omega)]
    simp [Nat.shiftLeft_eq]
  have e2 : (a.toNat * 256 + b.toNat) <<< 16 ||| c.toNat <<< 8 =
      ((a.toNat * 256 + b.toNat) * 256 + c.toNat) <<< 8 := by
    have h : (a.toNat * 256 + b.toNat) <<< 16 = ((a.toNat * 256 + b.toNat) <<< 8) <<< 8 := by
      rw [← Nat.shiftLeft_add]
    rw [h, ← Nat.shiftLeft_or_distrib, ← Nat.shiftLeft_add_eq_or_of_lt (by omega)]
    simp [Nat.shiftLeft_eq]
  rw [fromBe32, BitVec.toNat_ofNat, e1, e2, ← Nat.shiftLeft_add_eq_or_of_lt (by omega)]
  simp only [Nat.shiftLeft_eq]
  omega

/-- `BE32^-1` undoes `BE32`: the length a frame carries is the length read back. -/
theorem fromBe32_be32 (n : Word) :
    fromBe32 (n.extractLsb' 24 8) (n.extractLsb' 16 8) (n.extractLsb' 8 8) (n.extractLsb' 0 8) = n := by
  apply BitVec.eq_of_toNat_eq
  have := n.isLt
  simp only [fromBe32_toNat, BitVec.extractLsb'_toNat, Nat.shiftRight_eq_div_pow]
  omega

/-- The clock value on 16-bit words (42_frame_decoder.md R143): the bits shifted out are the discarded ones. -/
theorem clockValue_eq (b2 b3 b4 b5 : Byte) :
    clockValue b2 b3 b4 b5 =
      b2.setWidth 16 <<< 12 ||| b3.setWidth 16 <<< 8 ||| b4.setWidth 16 <<< 4 ||| b5.setWidth 16 := by
  have hm : ∀ b : Byte, b.toNat % 65536 = b.toNat := fun b => Nat.mod_eq_of_lt (by have := b.isLt; omega)
  apply BitVec.eq_of_toNat_eq
  simp [clockValue, clockRaw, hm]

end Machine

end Sys2Proof
end

