-- ==== Sys2Proof/Laws/Exec.lean ====
section
/-! SUPPORT. What each operation can do, said once: the cases of the four meanings, and the shape every one of them has. -/

namespace Sys2Proof.Machine

/-- The three outcomes of ENCODE (41_frame_encoder.md R100). -/
theorem execEncode_cases (p : BitVec 3) (snd : Byte) (s : State) :
    (selectCodes p = none ∧ execEncode p snd s = .next (s.raise .invalidPacketType 0)) ∨
    (∃ c, selectCodes p = some c ∧ s.payloadLength = none ∧
      execEncode p snd s = .next (s.raise .frameTooLarge 0)) ∨
    (∃ t q n, selectCodes p = some (t, q) ∧ s.payloadLength = some n ∧
      execEncode p snd s = .next ((s.writeFrame (frameBytes t snd q (s.payload n))).complete .ok
        { Results.zero with
          txlen := BitVec.ofNat 32 (10 + n)
          hdr := { typeCode := t, sender := snd, prio := q }
          plen := BitVec.ofNat 32 n })) := by
  unfold execEncode
  cases h : selectCodes p with
  | none => exact .inl ⟨rfl, rfl⟩
  | some c =>
    cases hn : s.payloadLength with
    | none => exact .inr (.inl ⟨c, rfl, rfl, rfl⟩)
    | some n => exact .inr (.inr ⟨c.1, c.2, n, rfl, rfl, rfl⟩)

/-- DECODE_HEADER with fewer than 10 bytes (42_frame_decoder.md R133). -/
theorem execDecodeHeader_short {s : State} (h : s.rxlen.toNat < 10) :
    execDecodeHeader s = .next (s.raise .incompleteFrame 0) := by
  simp [execDecodeHeader, h]

/-- DECODE_ACK with fewer than 6 bytes (R145). -/
theorem execDecodeAck_short {s : State} (h : s.rxlen.toNat < 6) :
    execDecodeAck s = .next (s.raise .incompleteFrame 0) := by
  simp [execDecodeAck, h]

/-- DECODE_ACK of a frame that is no ack (R141). -/
theorem execDecodeAck_unexpected {s : State} (h : 6 ≤ s.rxlen.toNat) (hb : s.memRead .buf 0 ≠ 0x02) :
    execDecodeAck s = .next (s.raise .unexpectedFrameType (s.memRead .buf 0)) := by
  rw [execDecodeAck, if_neg (Nat.not_lt.mpr h), if_pos hb]

/-- The shape of every operation (60_exceptions.md R160, R165): it may write BUF, and it completes. -/
theorem exec_shape (i : Instr) (s : State) :
    ∃ m e r, exec i s = .next (({ s with buf := m } : State).complete e r) := by
  cases i with
  | encode p snd =>
    rcases execEncode_cases p snd s with ⟨-, h⟩ | ⟨_, -, -, h⟩ | ⟨_, _, _, -, -, h⟩
    · exact ⟨_, _, _, h⟩
    · exact ⟨_, _, _, h⟩
    · exact ⟨_, _, _, h⟩
  | decodeHeader =>
    by_cases h : s.rxlen.toNat < 10
    · exact ⟨_, _, _, execDecodeHeader_short h⟩
    · exact ⟨s.buf, _, _, by simp only [exec, execDecodeHeader, if_neg h]; rfl⟩
  | decodeAck =>
    by_cases h : s.rxlen.toNat < 6
    · exact ⟨_, _, _, execDecodeAck_short h⟩
    · by_cases hb : s.memRead .buf 0 = 0x02
      · exact ⟨s.buf, _, _, by simp only [exec, execDecodeAck, if_neg h, hb, ne_eq, not_true, if_false]; rfl⟩
      · exact ⟨_, _, _, execDecodeAck_unexpected (by omega) hb⟩
  | reservedOp3 => exact ⟨_, _, _, rfl⟩

end Sys2Proof.Machine
end

