-- ==== Sys2Proof/Laws/HostAccess.lean ====
section
/-! SUPPORT. What a host access can do, said once, and the register map's laws. -/

namespace Sys2Proof.Machine

/-- The register map is the table of 10_state.md R21. -/
@[simp] theorem regAt_offset (r : Reg) : regAt r.offset = some r := by
  cases r <;> rfl

/-- Only a register's own offset leads to it. -/
theorem regAt_eq_some {off : Nat} {r : Reg} (h : regAt off = some r) : off = r.offset := by
  unfold regAt at h
  split at h; · cases h; assumption
  split at h; · cases h; assumption
  split at h; · cases h; assumption
  split at h; · cases h; assumption
  split at h; · cases h; assumption
  split at h; · cases h; assumption
  split at h; · cases h; assumption
  split at h; · cases h; assumption
  split at h; · cases h; assumption
  split at h; · cases h; assumption
  cases h

/-- 20_memory.md R52: every offset but the ten of R51 leads nowhere. -/
theorem regAt_eq_none {off : Nat} : regAt off = none ↔ off ∉ Reg.offsets := by
  constructor
  · intro h hm
    simp only [Reg.offsets, List.mem_cons, List.not_mem_nil, or_false] at hm
    rcases hm with rfl | rfl | rfl | rfl | rfl | rfl | rfl | rfl | rfl | rfl <;> simp [regAt] at h
  · intro h
    cases e : regAt off with
    | none => rfl
    | some r => exact absurd (regAt_eq_some e ▸ by cases r <;> decide) h

/-- Everything a host access that gets through can do (20_memory.md R50, R57): answer; draw and answer; write CMD,
STATUS or RXLEN; or write one cell of BUF or PAY. RXLEN and the memories are written only while BUSY = 0. -/
theorem hostAccess_cases {a : Access} {s t : State} (h : hostAccess a s = .next t) :
    (∃ b, t = s.answered b) ∨
    (∃ b, s.status.busy = true ∧ t = s.drew.answered b) ∨
    (∃ w, a = .regWrite 0x00 w ∧ t = (s.writeCmd w).answered .none) ∨
    (∃ w, a = .regWrite 0x04 w ∧ t = ({ s with status := s.status.hostWritten w } : State).answered .none) ∨
    (∃ w, a = .regWrite 0x08 w ∧ s.status.busy = false ∧
      t = ({ s with rxlen := s.clampRxlen w } : State).answered .none) ∨
    (∃ i v, a = .bufWrite i v ∧ i < s.cfg.packetMax.toNat ∧ s.status.busy = false ∧
      t = (s.memWrite .buf i v).answered .none) ∨
    (∃ i v, a = .payWrite i v ∧ i < s.cfg.payBytes ∧ s.status.busy = false ∧
      t = (s.memWrite .pay i v).answered .none) := by
  cases a with
  | regRead off =>
    simp only [hostAccess, hostRegRead] at h
    split at h
    · cases h
    · split at h
      · rename_i hb; cases h; exact .inr (.inl ⟨_, hb, rfl⟩)
      · cases h; exact .inl ⟨_, rfl⟩
  | regWrite off w =>
    simp only [hostAccess, hostRegWrite] at h
    split at h
    · cases h
    · rename_i e; cases regAt_eq_some e; cases h; exact .inr (.inr (.inl ⟨w, rfl, rfl⟩))
    · rename_i e; cases regAt_eq_some e; cases h; exact .inr (.inr (.inr (.inl ⟨w, rfl, rfl⟩)))
    · rename_i e
      cases regAt_eq_some e
      simp only [hostWriteRxlen] at h
      split at h
      · cases h
      · rename_i hb
        cases h
        exact .inr (.inr (.inr (.inr (.inl ⟨w, rfl, by simpa using hb, rfl⟩))))
    all_goals cases h; exact .inl ⟨_, rfl⟩
  | bufRead i =>
    simp only [hostAccess, hostBufRead] at h
    split at h
    · split at h
      · rename_i hb
        simp only [State.encodeInFlight, Bool.and_eq_true] at hb
        cases h; exact .inr (.inl ⟨_, hb.1, rfl⟩)
      · cases h; exact .inl ⟨_, rfl⟩
    · cases h
  | bufWrite i v =>
    simp only [hostAccess, hostBufWrite] at h
    split at h
    · rename_i hi
      split at h
      · cases h
      · rename_i hb
        cases h
        exact .inr (.inr (.inr (.inr (.inr (.inl ⟨i, v, rfl, hi, by simpa using hb, rfl⟩)))))
    · cases h
  | payRead i =>
    simp only [hostAccess, hostPayRead] at h
    split at h
    · cases h; exact .inl ⟨_, rfl⟩
    · cases h
  | payWrite i v =>
    simp only [hostAccess, hostPayWrite] at h
    split at h
    · rename_i hi
      split at h
      · cases h
      · rename_i hb
        cases h
        exact .inr (.inr (.inr (.inr (.inr (.inr ⟨i, v, rfl, hi, by simpa using hb, rfl⟩)))))
    · cases h

end Sys2Proof.Machine
end

