-- ==== Sys2Proof/Laws/PerInstr.lean ====
section
/-! SUPPORT. The per-instruction family EncodedRow: the encoder's word of an operation belongs to that operation's row of the opcode table and to no other, and its reserved bits are 0. -/

namespace Sys2Proof.Laws.EncodedRow

/-- The rows that cover the encoder's word of `i` are exactly the row of its mnemonic, and the reserved bits of the
word are 0 (30_encoding.md R81, R83). -/
def Statement (i : Instr) : Prop :=
  (opcodeTable.filter (fun r => r.covers (encode i))).map (fun r => r.mnemonic) = [i.mnemonic] ∧
    encode i &&& ~~~cmdMask = 0

theorem encode (ptype : BitVec 3) (sender : Byte) : Statement (.encode ptype sender) := by
  have h : Sys2Proof.encode (.encode ptype sender) &&& 0x00000003#32 = 0x00000000#32 := by
    rw [and_rowMask, Sys2Proof.encode, opField_cmdWord]; rfl
  refine ⟨?_, cmdWord_reserved _ _ _⟩
  simp only [opcodeTable, List.filter_cons, OpcodeRow.covers, h]
  rfl

theorem decodeHeader : Statement .decodeHeader := by
  constructor <;> decide

theorem decodeAck : Statement .decodeAck := by
  constructor <;> decide

theorem reservedOp3 : Statement .reservedOp3 := by
  constructor <;> decide

end Sys2Proof.Laws.EncodedRow
end

