-- ==== Sys2Proof/Laws/Step.lean ====
section
/-! SUPPORT. What one step can do, said once: a host access, reset, an idle engine turn, or the operation in flight. -/

namespace Sys2Proof.Machine

/-- With no turn left the engine moves. -/
theorem step_nil {s : State} (h : s.turns = []) : step s = engineStep s := by
  simp [step, h]

/-- The first turn is taken. -/
theorem step_cons {s : State} {t : Turn} {rest : List Turn} (h : s.turns = t :: rest) :
    step s = runTurn t { s with turns := rest } := by
  simp [step, h]

/-- The engine step while BUSY = 1 (60_exceptions.md R160). -/
theorem engineStep_busy {s : State} (h : s.status.busy = true) : engineStep s = exec s.command s := by
  simp [engineStep, h]

/-- While BUSY = 0 the engine has no step (R160). -/
theorem engineStep_idle {s : State} (h : s.status.busy = false) : engineStep s = .next s := by
  simp [engineStep, h]

/-- The command in flight after acceptance of `w` is the operation `w` stands for (10_state.md R26, R33). -/
@[simp] theorem State.command_accept (s : State) (w : Word) : (s.accept w).command = decodeWord w :=
  decodeWord_ofWord w

@[simp] theorem State.command_answered (s : State) (a : Answer) : (s.answered a).command = s.command := rfl

/-- The command in flight is an ENCODE exactly when CMD.OP is 0b00 (30_encoding.md R81). -/
theorem State.command_encode_iff (s : State) :
    (∃ p snd, s.command = .encode p snd) ↔ s.cmd.op = 0b00#2 := by
  rw [State.command, decodeWord_toWord]
  split <;> rename_i h
  · exact ⟨fun _ => h, fun _ => ⟨_, _, rfl⟩⟩
  · refine ⟨fun ⟨p, snd, e⟩ => ?_, fun e => absurd e h⟩
    split at e <;> (try split at e) <;> cases e

/-- Everything a step that gets through can do; `u` is the state with the turn taken off. -/
theorem step_cases {s t : State} (h : step s = .next t) :
    ∃ rest, ∃ u : State, u = { s with turns := rest } ∧
      ((∃ a, s.turns = .host a :: rest ∧ hostAccess a u = .next t) ∨
       (s.turns = .reset :: rest ∧ t = u.resetBlock) ∨
       ((s.turns = [] ∧ rest = [] ∨ s.turns = .engine :: rest) ∧
         (s.status.busy = false ∧ t = u ∨ s.status.busy = true ∧ exec s.command u = .next t))) := by
  cases hs : s.turns with
  | nil =>
    refine ⟨[], s, by rw [← hs], .inr (.inr ⟨.inl ⟨rfl, rfl⟩, ?_⟩)⟩
    rw [step_nil hs] at h
    cases hb : s.status.busy with
    | false => rw [engineStep_idle hb] at h; cases h; exact .inl ⟨rfl, rfl⟩
    | true => rw [engineStep_busy hb] at h; exact .inr ⟨rfl, h⟩
  | cons x rest =>
    refine ⟨rest, { s with turns := rest }, rfl, ?_⟩
    rw [step_cons hs] at h
    cases x with
    | host a => exact .inl ⟨a, rfl, h⟩
    | reset => simp only [runTurn] at h; cases h; exact .inr (.inl ⟨rfl, rfl⟩)
    | engine =>
      refine .inr (.inr ⟨.inr rfl, ?_⟩)
      simp only [runTurn] at h
      cases hb : s.status.busy with
      | false => rw [engineStep_idle (by exact hb)] at h; cases h; exact .inl ⟨rfl, rfl⟩
      | true => rw [engineStep_busy (by exact hb)] at h; exact .inr ⟨rfl, h⟩

end Sys2Proof.Machine
end

