-- ==== Sys2Proof/Tests/Slice0.lean ====
section
/-! SUPPORT. Small tests: the well-formedness smoke, words written out from the encoding, vectors of 95_test_vectors.md run as one step, and for every obligation with hypotheses a witness that meets them. -/

namespace Sys2Proof.Tests

open Sys2Proof Sys2Proof.Machine Sys2Proof.Claims

/-! ### Well-formedness: an ill-formed term for each check -/

/-- PACKET_MAX = 16 and PAY_BYTES = 8, the parameters of 95_test_vectors.md section 2. -/
def params : Params := { packetMax := 16, payBytes := 8 }

/-- 00_scope.md R8 at its bound: PACKET_MAX = 16 needs PAY_BYTES >= 7. -/
theorem smoke_params : Params.wellFormed { packetMax := 16, payBytes := 6 } = false ∧
    Params.wellFormed { packetMax := 16, payBytes := 7 } = true := by decide

/-- 95_test_vectors.md I6: offsets 0x28 and 0x02, RDBUF 16 and WRPAY 8 are out of range; their neighbours are not. -/
theorem smoke_access :
    (Access.regRead 0x28).wellFormed params = false ∧ (Access.regRead 0x24).wellFormed params = true ∧
    (Access.regWrite 0x02 0).wellFormed params = false ∧ (Access.regWrite 0x04 0).wellFormed params = true ∧
    (Access.bufRead 16).wellFormed params = false ∧ (Access.bufRead 15).wellFormed params = true ∧
    (Access.bufWrite 16 0).wellFormed params = false ∧ (Access.bufWrite 15 0).wellFormed params = true ∧
    (Access.payRead 8).wellFormed params = false ∧ (Access.payRead 7).wellFormed params = true ∧
    (Access.payWrite 8 0).wellFormed params = false ∧ (Access.payWrite 7 0).wellFormed params = true := by decide

/-- 30_encoding.md R90, R91: a PTYPE of 8, a sender id of 256, indices out of range, a LOADPAY string with a zero
byte or as long as PAY, and LOADBUF bytes longer than BUF are refused. -/
theorem smoke_line :
    (HostLine.encode 8 0).wellFormed params = false ∧ (HostLine.encode 7 255).wellFormed params = true ∧
    (HostLine.encode 0 256).wellFormed params = false ∧
    (HostLine.wrBuf 16 0).wellFormed params = false ∧ (HostLine.rdBuf 16).wellFormed params = false ∧
    (HostLine.wrPay 8 0).wellFormed params = false ∧ (HostLine.rdPay 8).wellFormed params = false ∧
    (HostLine.loadPay [1, 0]).wellFormed params = false ∧
    (HostLine.loadPay [1, 2, 3, 4, 5, 6, 7, 8]).wellFormed params = false ∧
    (HostLine.loadPay [1, 2, 3, 4, 5, 6, 7]).wellFormed params = true ∧
    (HostLine.loadBuf (List.replicate 17 0)).wellFormed params = false ∧
    (HostLine.loadBuf (List.replicate 16 0)).wellFormed params = true := by decide

/-! ### Decoding, from words written out bit by bit (30_encoding.md R83) -/

/-- SENDER 0x2A = 00101010 in bits 23:16, PTYPE 2 = 010 in bits 10:8, OP 00. -/
theorem test_decode_encode : decodeWord 0b00000000001010100000001000000000#32 = .encode 2 0x2A := by decide

/-- 95_test_vectors.md E12: every reserved bit that can be set is ignored. -/
theorem test_decode_reserved_bits : decodeWord 0xAB05FC00#32 = .encode 4 5 := by decide

/-- R85 (c): the decoders ignore PTYPE and SENDER. -/
theorem test_decode_header : decodeWord 0b11111111111111111111111111111101#32 = .decodeHeader := by decide

theorem test_decode_ack : decodeWord 0b00000000000000000000000000000010#32 = .decodeAck := by decide

theorem test_decode_reserved : decodeWord 0b00000000000000000000000000000011#32 = .reservedOp3 := by decide

/-- The encoder writes the words of 95_test_vectors.md E1 and E4 and of R83. -/
theorem test_encode_words : encode (.encode 0 7) = 0x00070000#32 ∧ encode (.encode 4 0xFF) = 0x00FF0400#32 ∧
    encode .decodeHeader = 0x00000001#32 ∧ encode .decodeAck = 0x00000002#32 := by decide

/-- R86: a command is one 32-bit word. -/
theorem test_decode_width : decodeTableWord 33 0 = none ∧ decodeTableWord 8 0x02 = some .decodeAck := by decide

/-! ### Vectors of 95_test_vectors.md, one step each -/

/-- An idle block after reset, with PAY and BUF listed from index 0 and RXLEN given. -/
def block (c : Params) (pay buf : List Byte) (rxlen : Word) : State :=
  { State.reset with cfg := c, pay := Memory.setList [] 0 pay, buf := Memory.setList [] 0 buf, rxlen := rxlen }

/-- The same block with the command word `w` accepted. -/
def inFlight (w : Word) (s : State) : State := s.accept w

/-- The state a step leads to. -/
def after (o : Host.Outcome State Fault Refusal) : Option State :=
  match o with
  | .next s => some s
  | .fault _ => none
  | .refused _ => none

/-- Reading a register of the state after a step. -/
def reg (r : Reg) (o : Host.Outcome State Fault Refusal) : Option Word := (after o).map (fun s => s.regValue r)

/-- The first `n` bytes of BUF after a step. -/
def bufBytes (n : Nat) (o : Host.Outcome State Fault Refusal) : Option (List Byte) :=
  (after o).map (fun s => (List.range n).map (fun a => s.memRead .buf a))

/-- E8: the frame fills BUF; TXLEN 16, PLEN 6, STATUS 0x002. -/
def e8 : State := inFlight 0x00010200 (block params [0x11, 0x22, 0x33, 0x44, 0x55, 0x66, 0x00] [] 0)

theorem test_encode_fills_buf :
    bufBytes 16 (step e8) = some [0x02, 0, 0, 0, 0x01, 0x02, 0, 0, 0, 0x06, 0x11, 0x22, 0x33, 0x44, 0x55, 0x66] ∧
    reg .txlen (step e8) = some 16 ∧ reg .plen (step e8) = some 6 ∧ reg .status (step e8) = some 0x002 := by decide

/-- E9 and E7: FrameTooLarge at one byte more; the type check comes before the size check. -/
def e9 : State := inFlight 0x00010200 (block params [0x11, 0x22, 0x33, 0x44, 0x55, 0x66, 0x77, 0x00] [0xAA] 0)

def e7 : State := inFlight 0x00000500 (block params [0x11, 0x22, 0x33, 0x44, 0x55, 0x66, 0x77, 0x00] [0xAA] 0)

theorem test_encode_errors : reg .status (step e9) = some 0x102 ∧ reg .status (step e7) = some 0x402 ∧
    bufBytes 1 (step e9) = some [0xAA] := by decide

/-- H3: no validation; HDR 0x00FF007F, PLEN 0xFFFFFFFF, RSV 0x00CCBBAA. -/
def h3 : State :=
  inFlight 1 (block params [] [0x7F, 0xAA, 0xBB, 0xCC, 0x00, 0xFF, 0xFF, 0xFF, 0xFF, 0xFF] 10)

theorem test_decode_header_reports : reg .hdr (step h3) = some 0x00FF007F ∧ reg .plen (step h3) = some 0xFFFFFFFF ∧
    reg .rsv (step h3) = some 0x00CCBBAA ∧ reg .status (step h3) = some 0x002 := by decide

/-- H2: nine bytes are IncompleteFrame. -/
def h2 : State := inFlight 1 (block params [] [0x02, 0, 0, 0, 0x09, 0x01, 0, 0, 0x01] 9)

theorem test_decode_header_short : reg .status (step h2) = some 0x202 ∧ reg .hdr (step h2) = some 0 := by decide

/-- A9: raw 0xAFFF2, so CLOCK 0xFFF2; HDR 0x00000002. -/
def a9 : State := inFlight 2 (block params [] [0x02, 0x00, 0xAB, 0xCD, 0xEF, 0x12] 6)

theorem test_decode_ack_clock : reg .clock (step a9) = some 0xFFF2 ∧ reg .hdr (step a9) = some 0x00000002 := by decide

/-- A2 and A3: UnexpectedFrameType carries the byte; with five bytes the length comes first. -/
def a2 : State := inFlight 2 (block params [] [0x01, 0x05, 0x00, 0x10, 0x00, 0x03] 6)

def a3 : State := inFlight 2 (block params [] [0x01, 0x05, 0x00, 0x10, 0x00] 5)

theorem test_decode_ack_errors : reg .status (step a2) = some 0x302 ∧ reg .errinfo (step a2) = some 0x01 ∧
    reg .status (step a3) = some 0x202 ∧ reg .errinfo (step a3) = some 0 := by decide

/-- I3: STATUS 0x502. -/
def i3 : State := inFlight 3 (block params [] [] 0)

theorem test_reserved_op : reg .status (step i3) = some 0x502 ∧ reg .errinfo (step i3) = some 0 := by decide

/-- I2 and I7: the RXLEN clamp, and a write to a read-only register that does nothing. -/
theorem test_register_writes :
    reg .rxlen (hostAccess (.regWrite 0x08 0xFFFFFFFF) (block params [] [] 0)) = some 16 ∧
    reg .rxlen (hostAccess (.regWrite 0x08 6) (block params [] [] 0)) = some 6 ∧
    reg .hdr (hostAccess (.regWrite 0x10 5) (block params [] [] 0)) = some 0 := by decide

/-- What a register read at an offset answers after a step. -/
def readAt (off : Nat) (o : Host.Outcome State Fault Refusal) : Option Answer :=
  match after o with
  | some s => (after (hostAccess (.regRead off) s)).map (fun t => t.answer)
  | none => none

/-- P1 and P2, through the offsets they write: RD TXLEN, HDR and PLEN after the ENCODE of "hello", RD CLOCK and ERRINFO
after the two acks; and H3's RSV. -/
theorem test_reads_at_offsets :
    readAt 0x0C (step (inFlight 0x00070000 (block params [0x68, 0x65, 0x6C, 0x6C, 0x6F, 0x00] [] 0)))
      = some (.word 0x0000000F) ∧
    readAt 0x10 (step (inFlight 0x00070000 (block params [0x68, 0x65, 0x6C, 0x6C, 0x6F, 0x00] [] 0)))
      = some (.word 0x00020700) ∧
    readAt 0x14 (step (inFlight 0x00070000 (block params [0x68, 0x65, 0x6C, 0x6C, 0x6F, 0x00] [] 0)))
      = some (.word 0x00000005) ∧
    readAt 0x18 (step h3) = some (.word 0x00CCBBAA) ∧
    readAt 0x1C (step (inFlight 2 (block params [] [0x02, 0x05, 0x00, 0x10, 0x00, 0x03] 6))) = some (.word 0x00001003) ∧
    readAt 0x20 (step a2) = some (.word 0x00000001) := by decide

/-- P4 run (b) and I1: RD STATUS after an overrun and the completion is 0x006, RD CMD keeps the ENCODE word; RD CAP is
PACKET_MAX and RD RXLEN the count. -/
theorem test_reads_of_status :
    readAt 0x04 (step { e8 with status := e8.status.overrun }) = some (.word 0x00000006) ∧
    readAt 0x00 (step e8) = some (.word 0x00010200) ∧ readAt 0x24 (step e8) = some (.word 16) ∧
    readAt 0x08 (step h3) = some (.word 10) := by decide

/-- I4, I5: an overrun keeps CMD and sets OVR; CLROVR clears it. -/
theorem test_overrun : reg .status (hostAccess (.regWrite 0x00 2) e8) = some 0x005 ∧
    reg .cmd (hostAccess (.regWrite 0x00 2) e8) = some 0x00010200 ∧
    reg .status (hostAccess (.regWrite 0x04 4) { e8 with status := e8.status.overrun }) = some 0x001 := by decide

/-- The instruction of every table row runs as the first step after reset with its word placed. -/
theorem test_first_after_reset :
    (after (step (State.reset.withFetchWord 32 0))).isSome = true ∧
    reg .status (step (State.reset.withFetchWord 32 1)) = some 0x202 ∧
    reg .status (step (State.reset.withFetchWord 32 2)) = some 0x202 ∧
    reg .status (step (State.reset.withFetchWord 32 3)) = some 0x502 := by decide

/-- A memory keeps its canonical form: sorted, one entry per cell. -/
theorem test_memory_canonical : Memory.set [(1, 0xA), (5, 0xB)] 3 0xC = [(1, 0xA), (3, 0xC), (5, 0xB)] ∧
    Memory.set [(1, 0xA), (5, 0xB)] 5 0xC = [(1, 0xA), (5, 0xC)] := by decide

/-! ### Witnesses: for every obligation with hypotheses, a state and operands that meet them -/

theorem witness_StepRunsTheCommandInFlight :
    (e8.status.busy = true ∧ e8.turns = []) ∧
    (({ e8 with turns := [.engine] } : State).status.busy = true ∧
      ({ e8 with turns := [.engine] } : State).turns = .engine :: []) ∧
    ((block params [] [] 0).status.busy = false ∧ (block params [] [] 0).turns = []) ∧
    (({ block params [] [] 0 with turns := [.engine] } : State).status.busy = false ∧
      ({ block params [] [] 0 with turns := [.engine] } : State).turns = .engine :: []) := by decide

theorem witness_FetchWordIsRunNext : decodeTableWord 32 0xFFFFFFFF = some .reservedOp3 ∧
    decodeTableWord 8 0x01 = some .decodeHeader ∧ decodeTableWord 24 0xFF0700 = some (.encode 7 0xFF) := by decide

theorem witness_StepTakesTheNextTurn :
    ({ e8 with turns := [.host (.regRead 0x04)] } : State).turns = .host (.regRead 0x04) :: [] ∧
    ({ e8 with turns := [.reset, .engine] } : State).turns = .reset :: [.engine] := by decide

/-- The four rows of `Codes`, and the four values of `NoFrame`. -/
theorem witness_codes : Codes 0 0x00 0x02 ∧ Codes 2 0x02 0x02 ∧ Codes 3 0x02 0x01 ∧ Codes 4 0x03 0x02 ∧
    NoFrame 1 ∧ NoFrame 5 ∧ NoFrame 6 ∧ NoFrame 7 := by
  simp [Codes, NoFrame]

theorem witness_payload : PayloadIs e8 6 ∧ Fits e8 6 :=
  ⟨⟨by decide, by decide⟩, by unfold Fits; decide⟩

/-- An empty payload in a BUF of ten bytes: the least frame. -/
def least : State := block { packetMax := 10, payBytes := 1 } [0x00] [] 0

theorem witness_least : PayloadIs least 0 ∧ Fits least 0 :=
  ⟨⟨by decide, by decide⟩, by unfold Fits; decide⟩

theorem witness_EncodeWritesTheHeader : Codes 2 0x02 0x02 ∧ PayloadIs e8 6 ∧ Fits e8 6 :=
  ⟨witness_codes.2.1, witness_payload⟩

theorem witness_EncodeCopiesThePayload : Codes 4 0x03 0x02 ∧ PayloadIs e8 6 ∧ Fits e8 6 :=
  ⟨witness_codes.2.2.2.1, witness_payload⟩

theorem witness_EncodeResultRegisters : (Codes 3 0x02 0x01 ∧ PayloadIs least 0 ∧ Fits least 0) ∧
    ∃ u, exec (.encode 2 1) e9 = .next u ∧ u.status.err ≠ 0 :=
  ⟨⟨witness_codes.2.2.1, witness_least⟩, _, rfl, by decide⟩

theorem witness_EncodeOutcomeByPacketType : PayloadIs e8 6 ∧ Fits e8 6 :=
  witness_payload

theorem witness_EncodeRejectsInvalidPacketType : NoFrame 1 ∧ NoFrame 5 ∧ NoFrame 6 ∧ NoFrame 7 :=
  witness_codes.2.2.2.2

/-- E10: PACKET_MAX = 9. -/
def e10 : State := block { packetMax := 9, payBytes := 1 } [0x00] [] 0

theorem witness_EncodeSizeLimit : (Codes 0 0x00 0x02 ∧ e10.cfg.packetMax.toNat < 10) ∧
    (Codes 0 0x00 0x02 ∧ PayloadIs e8 6) ∧ (Codes 0 0x00 0x02 ∧ PayloadIs e9 7) :=
  ⟨⟨witness_codes.1, by decide⟩, ⟨witness_codes.1, witness_payload.1⟩, witness_codes.1, by decide, by decide⟩

theorem witness_EncodeRejectsLongPayload : Codes 2 0x02 0x02 ∧
    ∀ j, 10 + j ≤ e9.cfg.packetMax.toNat → payAt e9 j ≠ 0x00 := by
  refine ⟨witness_codes.2.1, fun j hj => ?_⟩
  have h : ∀ j, j < 7 → payAt e9 j ≠ 0x00 := by decide
  have hc : e9.cfg.packetMax.toNat = 16 := by decide
  exact h j (by omega)

theorem witness_EncodeSucceedsExactlyWhenTheFrameFits : (∃ u, exec (.encode 2 1) e8 = .next u ∧ u.status.err = 0) ∧
    (∃ u, exec (.encode 5 1) e8 = .next u ∧ u.status.err = 4) ∧
    ∃ u, exec (.encode 2 1) e9 = .next u ∧ u.status.err = 1 :=
  ⟨⟨_, rfl, by decide⟩, ⟨_, rfl, by decide⟩, _, rfl, by decide⟩

theorem witness_EncodeChangesOnlyItsFrame : (∃ u, exec (.encode 2 1) e8 = .next u) ∧
    (selectCodes 2 = some (0x02, 0x02) ∧ e8.payloadLength = some 6 ∧ 10 + 6 ≤ 16) ∧
    selectCodes 1 = none ∧ e9.payloadLength = none :=
  ⟨⟨_, rfl⟩, by decide, by decide, by decide⟩

/-- A payload of one byte, and the same payload with another byte after its terminator. -/
def short : State := block params [0x11, 0x00, 0x33] [] 0

theorem witness_EncodeIgnoresBytesAfterTheTerminator : PayloadIs short 1 ∧
    ∀ j, j ≤ 1 → payAt { short with pay := Memory.setList [] 0 [0x11, 0x00, 0x44] } j = payAt short j :=
  ⟨⟨by decide, by decide⟩, by decide⟩

theorem witness_HeartbeatDiffersFromStatusInPriorityAlone : PayloadIs e8 6 ∧ Fits e8 6 :=
  witness_payload

/-- S1 with the least PACKET_MAX it needs. -/
def hello : State :=
  block { packetMax := 15, payBytes := 6 } [0x68, 0x65, 0x6C, 0x6C, 0x6F, 0x00] [] 0

theorem witness_EncodeWorkedExample : 15 ≤ hello.cfg.packetMax.toNat ∧ payAt hello 0 = 0x68 ∧ payAt hello 1 = 0x65 ∧
    payAt hello 2 = 0x6C ∧ payAt hello 3 = 0x6C ∧ payAt hello 4 = 0x6F ∧ payAt hello 5 = 0x00 := by decide

theorem witness_EncodeThenDecodeHeaderRoundTrip : (Codes 2 0x02 0x02 ∧ PayloadIs e8 6 ∧ Fits e8 6) ∧
    (Codes 0 0x00 0x02 ∧ PayloadIs least 0 ∧ Fits least 0) ∧
    ∃ u v, exec (.encode 0 7) least = .next u ∧ u.cfg = least.cfg ∧ u.status.busy = false ∧
      hostAccess (.regWrite 0x08 u.results.txlen) u = .next v ∧ v.status.busy = false :=
  ⟨⟨witness_codes.2.1, witness_payload⟩, ⟨witness_codes.1, witness_least⟩, _, _, rfl, rfl, rfl, rfl, rfl⟩

theorem witness_DecodeHeaderReportsTheHeader : 10 ≤ h3.rxlen.toNat := by decide

theorem witness_DecodeHeaderShortIsIncomplete : h2.rxlen.toNat < 10 := by decide

theorem witness_DecodeHeaderNeedsTheHeaderAlone : 10 ≤ h3.rxlen.toNat ∧ 10 ≤ (16 : Word).toNat ∧
    ∀ a, a < 10 → bufAt { h3 with buf := h3.buf.set 10 0x55 } a = bufAt h3 a := by decide

theorem witness_DecodeAckExtractsTheSender : 6 ≤ a9.rxlen.toNat ∧ bufAt a9 0 = 0x02 := by decide

theorem witness_DecodeAckClockValue : 6 ≤ a9.rxlen.toNat ∧ bufAt a9 0 = 0x02 ∧
    (0x5B : Byte).extractLsb' 0 4 = (bufAt a9 2).extractLsb' 0 4 := by decide

theorem witness_DecodeAckRejectsOtherTypes : 6 ≤ a2.rxlen.toNat ∧ bufAt a2 0 ≠ 0x02 := by decide

theorem witness_DecodeAckShortIsIncomplete : a3.rxlen.toNat < 6 := by decide

theorem witness_DecodeAckLeavesNoPartialState : (∃ u, exec .decodeAck a2 = .next u ∧ u.status.err = 3) ∧
    ∃ u, exec .decodeAck a3 = .next u ∧ u.status.err ≠ 0 ∧ u.status.err ≠ 3 :=
  ⟨⟨_, rfl, by decide⟩, _, rfl, by decide⟩

theorem witness_DecodeAckReadsSixBytes : 6 ≤ a9.rxlen.toNat ∧ 6 ≤ (8 : Word).toNat ∧
    ∀ a, a < 6 → bufAt { a9 with buf := a9.buf.set 6 0xAA } a = bufAt a9 a := by decide

/-- A1, the source's example. -/
def a1 : State := inFlight 2 (block params [] [0x02, 0x05, 0x00, 0x10, 0x00, 0x03] 6)

theorem witness_DecodeAckWorkedExamples : (a1.rxlen = 6 ∧ bufAt a1 0 = 0x02 ∧ bufAt a1 1 = 0x05 ∧ bufAt a1 2 = 0x00 ∧
    bufAt a1 3 = 0x10 ∧ bufAt a1 4 = 0x00 ∧ bufAt a1 5 = 0x03) ∧
    (bufAt a2 0 = 0x01 ∧ 6 ≤ a2.rxlen.toNat) ∧ (bufAt a3 0 = 0x01 ∧ a3.rxlen.toNat < 6) := by decide

theorem witness_DecodersHaveNoSideEffects : (∃ u, exec .decodeHeader h3 = .next u) ∧
    ∃ u, exec .decodeAck a9 = .next u :=
  ⟨⟨_, rfl⟩, _, rfl⟩

theorem witness_ReservedOperationIsIllegalCommand : (block params [] [] 0).status.busy = false ∧
    (block params [] [] 0).status.ovr = false := by decide

theorem witness_EveryOperationCompletes : (∃ u, exec (.encode 5 0) e8 = .next u ∧ u.status.err ≠ 0 ∧ u.status.err ≠ 3) ∧
    ∃ u, exec .decodeAck a2 = .next u ∧ u.status.err ≠ 0 :=
  ⟨⟨_, rfl, by decide⟩, _, rfl, by decide⟩

theorem witness_ErrorCodeOfEachOperation :
    ((∃ u, exec (.encode 1 0) e8 = .next u) ∧ NoFrame 1) ∧
    ((∃ u, exec (.encode 2 0) e9 = .next u) ∧ ¬ NoFrame 2 ∧ ∀ n, PayloadIs e9 n → ¬ Fits e9 n) ∧
    ((∃ u, exec (.encode 2 0) e8 = .next u) ∧ ¬ NoFrame 2 ∧ PayloadIs e8 6 ∧ Fits e8 6) ∧
    (∃ u, exec .decodeHeader h2 = .next u) ∧ (∃ u, exec .decodeAck a2 = .next u) ∧
    ∃ u, exec .reservedOp3 i3 = .next u := by
  refine ⟨⟨⟨_, rfl⟩, witness_codes.2.2.2.2.1⟩, ⟨⟨_, rfl⟩, by unfold NoFrame; decide, fun n h hf => ?_⟩,
    ⟨⟨_, rfl⟩, by unfold NoFrame; decide, witness_payload⟩, ⟨_, rfl⟩, ⟨_, rfl⟩, _, rfl⟩
  have hc : e9.cfg.packetMax.toNat = 16 := by decide
  have h7 : ∀ j, j < 7 → payAt e9 j ≠ 0x00 := by decide
  unfold Fits at hf
  exact h7 n (by omega) h.1

theorem witness_FailingOperationWritesNoMemory : (∃ u, exec (.encode 2 1) e9 = .next u ∧ u.status.err ≠ 0) ∧
    ∃ u, exec (.encode 2 1) { e8 with buf := [(0, 0xFF)] } = .next u ∧
      bufAt u 0 ≠ bufAt { e8 with buf := [(0, 0xFF)] } 0 :=
  ⟨⟨_, rfl, by decide⟩, _, rfl, by decide⟩

theorem witness_ReservedEncodings : (opField 0xFFFFFFFF#32 = 0b11#2 ∧ (block params [] [] 0).status.busy = false) ∧
    (opField 0x00070100#32 = 0b00#2 ∧ NoFrame (ptypeField 0x00070100#32)) ∧
    (opField 0x00000001#32 = opField 0x00FF0701#32 ∧ opField 0x00000001#32 = 0b01#2) ∧
    (opField 0x00000002#32 = opField 0x00FF0702#32 ∧ opField 0x00000002#32 = 0b10#2) ∧
    0xAB05FC00#32 &&& 0x00FF0703#32 = 0x00050400#32 &&& 0x00FF0703#32 := by
  unfold NoFrame; decide

theorem witness_CommandWriteAcceptance : (block params [] [] 0).status.busy = false ∧ e8.status.busy = true := by decide

theorem witness_CommandRegisterHoldsTheLastAcceptedCommand :
    (∃ t, step { block params [] [] 0 with turns := [.host (.regWrite 0x00 2)] } = .next t ∧ cmdWordOf t = 2) ∧
    (∃ t, step { e8 with turns := [.reset] } = .next t ∧ cmdWordOf t = 0) ∧
    (e8.status.busy = true ∧ ∃ t, step { e8 with turns := [.host (.regRead 0x00)] } = .next t ∧ t.status.busy = true) :=
  ⟨⟨_, rfl, by decide⟩, ⟨_, rfl, by decide⟩, by decide, _, rfl, by decide⟩

theorem witness_OverrunIsSticky :
    (∃ t, step { e8 with turns := [.host (.regWrite 0x00 2)] } = .next t ∧ e8.status.busy = true) ∧
    (∃ t, step { e8 with status := e8.status.overrun, turns := [.host (.regWrite 0x04 4)] } = .next t ∧
      t.status.ovr = false) ∧
    (∃ t, step { e8 with status := e8.status.overrun, turns := [.reset] } = .next t ∧ t.status.ovr = false) ∧
    (∃ t, step { e8 with turns := [.host (.regWrite 0x00 2)] } = .next t ∧ e8.status.ovr = false ∧
      t.status.ovr = true) ∧
    (∃ u, exec .decodeAck a9 = .next u) ∧
    (({ block params [] [] 0 with status := { busy := false, done := true, ovr := true, err := 0 } } : State).status.busy
      = false) :=
  ⟨⟨_, rfl, by decide⟩, ⟨_, rfl, by decide⟩, ⟨_, rfl, by decide⟩, ⟨_, rfl, by decide⟩, ⟨_, rfl⟩, rfl⟩

theorem witness_RxlenStoresTheMinimum : (block params [] [] 0).status.busy = false ∧
    ∃ u, exec (.encode 2 1) e8 = .next u :=
  ⟨by decide, _, rfl⟩

theorem witness_ReadOnlyWritesHaveNoEffect : ReadOnly .txlen ∧ ReadOnly .hdr ∧ ReadOnly .plen ∧ ReadOnly .rsv ∧
    ReadOnly .clock ∧ ReadOnly .errinfo ∧ ReadOnly .cap := by
  simp [ReadOnly]

theorem witness_RegisterReads : (block params [] [] 0).status.busy = false ∧ e8.status.busy = true ∧
    ReadOnly .errinfo ∧ Reg.errinfo ≠ .cap := by
  simp [ReadOnly]; decide

theorem witness_RegisterOffsets :
    0x28 ∉ [0x00, 0x04, 0x08, 0x0C, 0x10, 0x14, 0x18, 0x1C, 0x20, 0x24] ∧
    0x02 ∉ [0x00, 0x04, 0x08, 0x0C, 0x10, 0x14, 0x18, 0x1C, 0x20, 0x24] ∧
    0x24 ∈ [0x00, 0x04, 0x08, 0x0C, 0x10, 0x14, 0x18, 0x1C, 0x20, 0x24] ∧
    0x00 ∈ [0x00, 0x04, 0x08, 0x0C, 0x10, 0x14, 0x18, 0x1C, 0x20, 0x24] := by decide

theorem witness_BufAccesses : (15 < (block params [] [] 0).cfg.packetMax.toNat ∧
      (block params [] [] 0).status.busy = false) ∧
    (block params [] [] 0).cfg.packetMax.toNat ≤ 16 ∧
    (block { packetMax := 0, payBytes := 0 } [] [] 0).cfg.packetMax = 0 := by decide

theorem witness_PayAccesses : 7 < (block params [] [] 0).cfg.payBytes ∧ (block params [] [] 0).status.busy = false ∧
    (block params [] [] 0).cfg.payBytes ≤ 8 := by decide

theorem witness_OperandWriteWhileBusyIsAHazard : e8.status.busy = true ∧ 15 < e8.cfg.packetMax.toNat ∧
    7 < e8.cfg.payBytes := by decide

theorem witness_ReadsWhileBusy : (e8.status.busy = true ∧ 15 < e8.cfg.packetMax.toNat ∧ e8.cmd.op = 0b00#2) ∧
    (a9.status.busy = true ∧ 15 < a9.cfg.packetMax.toNat ∧ a9.cmd.op ≠ 0b00#2) ∧ 7 < a9.cfg.payBytes ∧
    ReadOnly .txlen ∧ Reg.txlen ≠ .cap := by
  simp [ReadOnly]; decide

theorem witness_AccessGetsThroughExactlyWhenSafe : Access.safe params true (.bufRead 15) = true ∧
    Access.safe params true (.bufWrite 15 0) = false ∧ Access.safe params false (.bufWrite 15 0) = true ∧
    Access.safe params false (.bufWrite 16 0) = false ∧ Access.safe params true (.regWrite 0x08 0) = false := by decide

theorem witness_CapIsHardwired : ∃ t, step e8 = .next t :=
  ⟨_, rfl⟩

theorem witness_HostProgramNotation : 7 ≤ 7 ∧ 255 ≤ 255 := by decide

theorem witness_LoadPseudoCommandsLoad :
    ((HostLine.loadPay [1, 2, 3, 4, 5, 6, 7]).wellFormed params = true ∧
      ({ block params [] [] 0 with turns := HostLine.turns (.loadPay [1, 2, 3, 4, 5, 6, 7]) } : State).status.busy
        = false) ∧
    ((HostLine.loadBuf (List.replicate 16 0)).wellFormed params = true ∧
      ({ block params [] [] 0 with turns := HostLine.turns (.loadBuf (List.replicate 16 0)) } : State).status.busy
        = false) := by decide

theorem witness_WaitAndClrOvr :
    (({ e8 with turns := HostLine.turns .clrOvr } : State).turns = HostLine.turns .clrOvr ++ []) ∧
    (({ a9 with turns := HostLine.turns (.wait 2) } : State).status.busy = true ∧
      ({ a9 with turns := HostLine.turns (.wait 2) } : State).turns = HostLine.turns (.wait 2) ++ []) ∧
    (∃ u, exec (decodeWord (cmdWordOf a9)) { a9 with turns := HostLine.turns (.wait 2) } = .next u) ∧
    (∀ a, Turn.host a ∉ ([] : List Turn)) ∧
    ({ block params [] [] 0 with turns := HostLine.turns (.wait 0) } : State).status.busy = false ∧
    ({ block params [] [] 0 with turns := HostLine.turns (.wait 0) } : State).turns = HostLine.turns (.wait 0) ++ [] :=
  ⟨by decide, by decide, ⟨_, rfl⟩, by simp, by decide, by decide⟩

/-- A run has ended on an idle block with an engine or a reset turn left, and not with a host turn left (R199). -/
theorem test_run_ended : RunEnded { block params [] [] 0 with turns := [.engine, .reset] } ∧
    ¬ RunEnded { block params [] [] 0 with turns := [.engine, .host (.regRead 0x04)] } ∧ ¬ RunEnded e8 :=
  ⟨⟨by simp, by decide⟩, fun h => absurd h.1 (by simp), fun h => absurd h.2 (by decide)⟩

theorem witness_ResetClearsEveryRegister :
    ({ e8 with turns := [.reset] } : State).turns = .reset :: [] ∧ Reg.errinfo ≠ .cap := by decide

theorem witness_ResetStateRegisters : Reg.cmd ≠ .cap := by decide

/-- The invariant holds in a state with BUF, PAY and RXLEN in use, whose step is a whole ENCODE. -/
theorem witness_StepKeepsTheInvariant : Inv (block params [0x11, 0x00] [0x22] 16) ∧
    ∃ t, step (block params [0x11, 0x00] [0x22] 16) = .next t := by
  refine ⟨⟨by decide, by decide, by decide, by decide, by decide, by decide, by decide, by decide, ?_, by decide,
    by decide, by decide⟩, _, rfl⟩
  exact fun _ _ => ⟨rfl, rfl, rfl⟩

theorem witness_BusyAndDoneChangeOnlyAtTheirEvents :
    (∃ t, step { block params [] [] 0 with turns := [.host (.regWrite 0x00 2)] } = .next t ∧ t.status.busy = true) ∧
    (∃ t, step a9 = .next t ∧ a9.status.busy = true ∧ a9.status.done = false ∧ t.status.busy = false ∧
      t.status.done = true) ∧
    (∃ t, step { a9 with turns := [.reset] } = .next t ∧ t.status.busy = false) ∧
    ∃ t, step { block params [] [] 0 with
        status := { busy := false, done := true, ovr := false, err := 0 }
        turns := [.host (.regWrite 0x00 2)] } = .next t ∧ t.status.done = false :=
  ⟨⟨_, rfl, by decide⟩, ⟨_, rfl, by decide⟩, ⟨_, rfl, by decide⟩, _, rfl, by decide⟩

theorem witness_WhoChangesTheMemories : (∃ t, step e8 = .next t) ∧
    (∃ t, step { block params [] [] 0 with turns := [.host (.payWrite 7 1)] } = .next t) ∧
    ∃ t, step { block params [] [] 0 with turns := [.host (.bufWrite 15 1)] } = .next t :=
  ⟨⟨_, rfl⟩, ⟨_, rfl⟩, _, rfl⟩

theorem witness_OperationInFlightCompletes :
    a9.status.busy = true ∧ (∃ u, exec (decodeWord (cmdWordOf a9)) a9 = .next u) ∧
    ∀ x ∈ ({ a9 with turns := [.host (.regRead 0x04), .host (.regWrite 0x00 2)] } : State).turns,
      ∃ a, x = .host a ∧ Access.safe a9.cfg true a = true := by
  refine ⟨by decide, ⟨_, rfl⟩, fun x hx => ?_⟩
  rcases List.mem_cons.mp hx with rfl | hx
  · exact ⟨_, rfl, by decide⟩
  · rcases List.mem_cons.mp hx with rfl | hx
    · exact ⟨_, rfl, by decide⟩
    · cases hx

end Sys2Proof.Tests
end

section
/-! PROOFS. The registers (10_state.md R26 to R44): one rule per host access of a register, the words reads return,
what an operation depends on, and from them the obligations of the register map. -/

namespace Sys2Proof.Machine

open Sys2Proof.Claims

/-! ### Register writes -/

section RegisterWrites

variable (s : State) (w : Word)

/-- R33, first branch. -/
theorem State.writeCmd_idle (h : s.status.busy = false) : s.writeCmd w = s.accept w := by
  simp [State.writeCmd, h]

/-- R33, second branch. -/
theorem State.writeCmd_busy (h : s.status.busy = true) : s.writeCmd w = { s with status := s.status.overrun } := by
  simp [State.writeCmd, h]

theorem hostAccess_write_cmd :
    hostAccess (.regWrite 0x00 w) s = .next ((s.writeCmd w).answered .none) := rfl

theorem hostAccess_write_status :
    hostAccess (.regWrite 0x04 w) s =
      .next (({ s with status := s.status.hostWritten w } : State).answered .none) := rfl

theorem hostAccess_write_rxlen_idle (h : s.status.busy = false) :
    hostAccess (.regWrite 0x08 w) s = .next (({ s with rxlen := s.clampRxlen w } : State).answered .none) := by
  change hostWriteRxlen w s = _
  simp [hostWriteRxlen, h]

theorem hostAccess_write_readOnly {r : Reg} (h : ReadOnly r) :
    hostAccess (.regWrite r.offset w) s = .next (s.answered .none) := by
  rcases h with rfl | rfl | rfl | rfl | rfl | rfl | rfl <;> rfl

/-- R34 as one record: OVR is the only flag a STATUS write touches. -/
theorem Status.hostWritten_eq (t : Status) : t.hostWritten w = { t with ovr := t.ovr && !w.getLsbD 2 } := by
  unfold Status.hostWritten
  split
  · next h => simp only [h, Bool.not_true, Bool.and_false]
  · next h => simp only [Bool.not_eq_true] at h; simp only [h, Bool.not_false, Bool.and_true]

/-- R35: what RXLEN keeps is the minimum of the word and PACKET_MAX, as numbers. -/
theorem State.clampRxlen_toNat : (s.clampRxlen w).toNat = min w.toNat s.cfg.packetMax.toNat := by
  unfold State.clampRxlen
  split
  · next h => exact (Nat.min_eq_left h).symm
  · next h => exact (Nat.min_eq_right (by omega)).symm

end RegisterWrites

/-! ### Register reads -/

section RegisterReads

variable (s : State) (r : Reg)

/-- The word a read of `r` answers (R44): the register's value on an idle block, the busy value with the next draw
while BUSY = 1. -/
def State.readWord : Word :=
  if s.status.busy then s.busyValue r (Config.busyWord s.draws) else s.regValue r

theorem State.readWord_idle (h : s.status.busy = false) : s.readWord r = s.regValue r := by
  simp [State.readWord, h]

theorem State.readWord_busy (h : s.status.busy = true) :
    s.readWord r = s.busyValue r (Config.busyWord s.draws) := by
  simp [State.readWord, h]

theorem hostAccess_read_idle (h : s.status.busy = false) :
    hostAccess (.regRead r.offset) s = .next (s.answered (.word (s.regValue r))) := by
  simp [hostAccess, hostRegRead, h]

theorem hostAccess_read_busy (h : s.status.busy = true) :
    hostAccess (.regRead r.offset) s =
      .next (s.drew.answered (.word (s.busyValue r (Config.busyWord s.draws)))) := by
  simp [hostAccess, hostRegRead, h]

/-- R44: every register read completes, answers `readWord` and changes nothing of the block. -/
theorem readAnswers_readWord : ReadAnswers s r.offset (s.readWord r) := by
  cases h : s.status.busy with
  | false => exact ⟨_, hostAccess_read_idle s r h, rfl, by rw [s.readWord_idle r h]; rfl⟩
  | true => exact ⟨_, hostAccess_read_busy s r h, rfl, by rw [s.readWord_busy r h]; rfl⟩

/-- R44: CMD, RXLEN and CAP read exactly at all times. -/
theorem State.readWord_exact {r : Reg} (h : r = .cmd ∨ r = .rxlen ∨ r = .cap) : s.readWord r = s.regValue r := by
  cases hb : s.status.busy with
  | false => exact s.readWord_idle r hb
  | true =>
    rw [s.readWord_busy r hb]
    rcases h with rfl | rfl | rfl <;> rfl

theorem readAnswers_exact {r : Reg} (h : r = .cmd ∨ r = .rxlen ∨ r = .cap) :
    ReadAnswers s r.offset (s.regValue r) :=
  s.readWord_exact h ▸ readAnswers_readWord s r

theorem readAnswers_idle (h : s.status.busy = false) : ReadAnswers s r.offset (s.regValue r) :=
  s.readWord_idle r h ▸ readAnswers_readWord s r

/-- A busy read of a result register is the draw with the reserved bits 0. -/
theorem State.busyValue_readOnly {r : Reg} (h : ReadOnly r) (hc : r ≠ .cap) (d : Word) :
    s.busyValue r d = d &&& fieldMask r := by
  have hones : d &&& 0xFFFFFFFF#32 = d := BitVec.and_allOnes
  rcases h with rfl | rfl | rfl | rfl | rfl | rfl | rfl
  · exact hones.symm
  · rfl
  · exact hones.symm
  · rfl
  · rfl
  · rfl
  · exact absurd rfl hc

end RegisterReads

/-! ### The bits of a register's word -/

section Bits

/-- A register of three fields at bits 16, 8 and 0, as a number (10_state.md section 1). -/
theorem toNat_threeFields {m n : Nat} (hm : m ≤ 8) (hn : n ≤ 8) (a : Byte) (b : BitVec m) (c : BitVec n) :
    (zext32 a <<< 16 ||| zext32 b <<< 8 ||| zext32 c).toNat = a.toNat * 2 ^ 16 + b.toNat * 2 ^ 8 + c.toNat := by
  have ha : a.toNat < 256 := a.isLt
  have hb : b.toNat < 256 := b.isLt.trans_le (Nat.pow_le_pow_right (by omega) hm)
  have hc : c.toNat < 256 := c.isLt.trans_le (Nat.pow_le_pow_right (by omega) hn)
  have hmod : ∀ x < 256, x % 4294967296 = x := fun x hx => Nat.mod_eq_of_lt (by omega)
  have hword : zext32 a <<< 16 ||| zext32 b <<< 8 ||| zext32 c = fromBe32 0 a (b.setWidth 8) (c.setWidth 8) := by
    apply BitVec.eq_of_toNat_eq
    simp [zext32, fromBe32, hmod _ ha, hmod _ hb, hmod _ hc, Nat.mod_eq_of_lt hb, Nat.mod_eq_of_lt hc]
  rw [hword, fromBe32_toNat]
  simp [Nat.mod_eq_of_lt hb, Nat.mod_eq_of_lt hc]

variable (t : Status)

theorem Status.toWord_busy : t.toWord.getLsbD 0 = t.busy := by
  simp [Status.toWord, zext32]

theorem Status.toWord_done : t.toWord.getLsbD 1 = t.done := by
  simp [Status.toWord, zext32]

theorem Status.toWord_ovr : t.toWord.getLsbD 2 = t.ovr := by
  simp [Status.toWord, zext32]

theorem Status.toWord_err : t.toWord.extractLsb' 8 4 = t.err := by
  ext i hi
  interval_cases i <;> simp [Status.toWord, zext32]

/-- The reserved bits of STATUS read 0 (R21). -/
theorem Status.toWord_reserved : t.toWord &&& ~~~fieldMask .status = 0 := by
  ext i hi
  interval_cases i <;> simp [Status.toWord, zext32, fieldMask]

/-- Bits 2:0 of STATUS are the three flags, whatever ERR holds. -/
theorem Status.toWord_flags (e : BitVec 4) :
    ({ t with err := e } : Status).toWord &&& 0x00000007#32 = t.toWord &&& 0x00000007#32 := by
  ext i hi
  interval_cases i <;> simp [Status.toWord, zext32]

/-- Bits 11:8 of STATUS are those of the word ERR is taken from. -/
theorem Status.toWord_err_of_word (d : Word) :
    ({ t with err := d.extractLsb' 8 4 } : Status).toWord &&& 0x00000F00#32 = d &&& 0x00000F00#32 := by
  ext i hi
  interval_cases i <;> simp [Status.toWord, zext32]

/-- Three byte fields leave bits 31:24 at 0. -/
theorem threeBytes_reserved (a b c : Byte) :
    (zext32 a <<< 16 ||| zext32 b <<< 8 ||| zext32 c) &&& ~~~0x00FFFFFF#32 = 0 := by
  ext i hi
  interval_cases i <;> simp [zext32]

theorem and_mask_reserved (d m : Word) : d &&& m &&& ~~~m = 0 := by
  rw [BitVec.and_assoc, BitVec.and_not_self]
  simp

theorem zext32_clock_reserved (c : BitVec 16) : zext32 c &&& ~~~0x0000FFFF#32 = 0 := by
  ext i hi
  interval_cases i <;> simp [zext32]

theorem zext32_errinfo_reserved (c : Byte) : zext32 c &&& ~~~0x000000FF#32 = 0 := by
  ext i hi
  interval_cases i <;> simp [zext32]

/-- R21: the reserved bits of every register's value are 0. -/
theorem State.regValue_reserved (s : State) (r : Reg) : s.regValue r &&& ~~~fieldMask r = 0 := by
  have hfull : ∀ w : Word, w &&& ~~~0xFFFFFFFF#32 = 0 := fun w => BitVec.and_zero
  cases r with
  | cmd => exact cmdWord_reserved _ _ _
  | status => exact s.status.toWord_reserved
  | rxlen => exact hfull _
  | txlen => exact hfull _
  | hdr => exact threeBytes_reserved _ _ _
  | plen => exact hfull _
  | rsv => exact threeBytes_reserved _ _ _
  | clock => exact zext32_clock_reserved _
  | errinfo => exact zext32_errinfo_reserved _
  | cap => exact hfull _

/-- R44: so are they in a read while BUSY = 1, whatever the draw. -/
theorem State.busyValue_reserved (s : State) (r : Reg) (d : Word) : s.busyValue r d &&& ~~~fieldMask r = 0 := by
  have hresult : ReadOnly r → r ≠ .cap → s.busyValue r d &&& ~~~fieldMask r = 0 := fun h hc => by
    rw [s.busyValue_readOnly h hc]
    exact and_mask_reserved _ _
  cases r with
  | cmd => exact s.regValue_reserved .cmd
  | status => exact Status.toWord_reserved _
  | rxlen => exact s.regValue_reserved .rxlen
  | cap => exact s.regValue_reserved .cap
  | _ => exact hresult (by simp [ReadOnly]) (by decide)

theorem State.readWord_reserved (s : State) (r : Reg) : s.readWord r &&& ~~~fieldMask r = 0 := by
  unfold State.readWord
  split
  · exact s.busyValue_reserved r _
  · exact s.regValue_reserved r

/-- R44: BUSY, DONE and OVR read exactly at all times. -/
theorem State.readWord_status_flags (s : State) :
    s.readWord .status &&& 0x00000007#32 = s.regValue .status &&& 0x00000007#32 := by
  unfold State.readWord
  split
  · exact s.status.toWord_flags _
  · rfl

/-- R44: ERR of a STATUS read while BUSY = 1 is the draw's. -/
theorem State.readWord_status_err_busy {s : State} (h : s.status.busy = true) :
    s.readWord .status &&& 0x00000F00#32 = Config.busyWord s.draws &&& 0x00000F00#32 := by
  rw [s.readWord_busy .status h]
  exact s.status.toWord_err_of_word _

/-- The flags of a STATUS read, one bit each (R29 to R31), at all times. -/
theorem State.readWord_status_bits (s : State) :
    (s.readWord .status).getLsbD 0 = s.status.busy ∧ (s.readWord .status).getLsbD 1 = s.status.done ∧
      (s.readWord .status).getLsbD 2 = s.status.ovr := by
  unfold State.readWord
  split
  · exact ⟨Status.toWord_busy _, Status.toWord_done _, Status.toWord_ovr _⟩
  · exact ⟨Status.toWord_busy _, Status.toWord_done _, Status.toWord_ovr _⟩

end Bits

/-! ### What an operation depends on and what it leaves -/

section Operations

variable {s s' u : State}

/-- Every operation completes and changes nothing but BUF, the results and the flags of a completion. -/
theorem exec_eq_complete {i : Instr} (h : exec i s = .next u) :
    ∃ m e r, u = ({ s with buf := m } : State).complete e r := by
  obtain ⟨m, e, r, hx⟩ := exec_shape i s
  rw [hx] at h
  cases h
  exact ⟨m, e, r, rfl⟩

theorem State.memRead_pay_congr (hp : s'.pay = s.pay) (he : s'.epoch = s.epoch) (i : Nat) :
    s'.memRead .pay i = s.memRead .pay i := by
  simp [State.memRead, State.unlistedByte, hp, he]

theorem State.memRead_buf_congr (hb : s'.buf = s.buf) (he : s'.epoch = s.epoch) (i : Nat) :
    s'.memRead .buf i = s.memRead .buf i := by
  simp [State.memRead, State.unlistedByte, hb, he]

theorem State.payload_congr (hp : s'.pay = s.pay) (he : s'.epoch = s.epoch) (n : Nat) :
    s'.payload n = s.payload n := by
  simp only [State.payload, State.memRead_pay_congr hp he]

theorem State.payloadLength_congr (hc : s'.cfg = s.cfg) (hp : s'.pay = s.pay) (he : s'.epoch = s.epoch) :
    s'.payloadLength = s.payloadLength := by
  refine Option.ext fun n => ?_
  simp only [State.payloadLength_eq_some, State.memRead_pay_congr hp he, hc]

/-- The results of a successful ENCODE with `n` payload bytes (41_frame_encoder.md R108). -/
def encodeResults (t snd q : Byte) (n : Nat) : Results :=
  { Results.zero with
    txlen := BitVec.ofNat 32 (10 + n)
    hdr := { typeCode := t, sender := snd, prio := q }
    plen := BitVec.ofNat 32 n }

/-- The results of a successful DECODE_HEADER (42_frame_decoder.md R131, R132). -/
def State.headerResults (s : State) : Results :=
  { Results.zero with
    hdr := { typeCode := s.memRead .buf 0, sender := s.memRead .buf 4, prio := s.memRead .buf 5 }
    plen := fromBe32 (s.memRead .buf 6) (s.memRead .buf 7) (s.memRead .buf 8) (s.memRead .buf 9)
    rsv := { b1 := s.memRead .buf 1, b2 := s.memRead .buf 2, b3 := s.memRead .buf 3 } }

/-- The results of a successful DECODE_ACK (R142, R143). -/
def State.ackResults (s : State) : Results :=
  { Results.zero with
    hdr := { typeCode := s.memRead .buf 0, sender := s.memRead .buf 1, prio := 0 }
    clock := clockValue (s.memRead .buf 2) (s.memRead .buf 3) (s.memRead .buf 4) (s.memRead .buf 5) }

/-- DECODE_HEADER with at least 10 bytes (R130). -/
theorem execDecodeHeader_ok (h : 10 ≤ s.rxlen.toNat) :
    execDecodeHeader s = .next (s.complete .ok s.headerResults) := by
  rw [execDecodeHeader, if_neg (Nat.not_lt.mpr h)]
  rfl

/-- DECODE_ACK of an ack (R140). -/
theorem execDecodeAck_ok (h : 6 ≤ s.rxlen.toNat) (h0 : s.memRead .buf 0 = 0x02) :
    execDecodeAck s = .next (s.complete .ok s.ackResults) := by
  rw [execDecodeAck, if_neg (Nat.not_lt.mpr h), if_neg (not_not_intro h0)]
  rfl

theorem State.headerResults_congr (hb : s'.buf = s.buf) (he : s'.epoch = s.epoch) :
    s'.headerResults = s.headerResults := by
  simp only [State.headerResults, State.memRead_buf_congr hb he]

theorem State.ackResults_congr (hb : s'.buf = s.buf) (he : s'.epoch = s.epoch) :
    s'.ackResults = s.ackResults := by
  simp only [State.ackResults, State.memRead_buf_congr hb he]

/-- 41_frame_encoder.md R100 to R108: ENCODE reads PACKET_MAX and PAY only. On every state that agrees with `s` on
them it makes the same change of BUF and completes with the same code and results. -/
theorem execEncode_determined (p : BitVec 3) (snd : Byte) (s : State) :
    ∃ (f : Memory → Memory) (e : ErrCode) (r : Results), ∀ s' : State,
      s'.cfg = s.cfg → s'.pay = s.pay → s'.epoch = s.epoch →
        execEncode p snd s' = .next (({ s' with buf := f s'.buf } : State).complete e r) := by
  cases hc : selectCodes p with
  | none => exact ⟨id, .invalidPacketType, _, fun s' _ _ _ => by simp only [execEncode, hc]; rfl⟩
  | some c =>
    cases hn : s.payloadLength with
    | none =>
      refine ⟨id, .frameTooLarge, Results.zero, fun s' hcfg hp he => ?_⟩
      simp only [execEncode, hc, State.payloadLength_congr hcfg hp he, hn]
      rfl
    | some n =>
      refine ⟨fun m => m.setList 0 (frameBytes c.1 snd c.2 (s.payload n)), .ok, encodeResults c.1 snd c.2 n,
        fun s' hcfg hp he => ?_⟩
      simp only [execEncode, hc, State.payloadLength_congr hcfg hp he, hn, State.payload_congr hp he]
      rfl

/-- Every operation reads PACKET_MAX, PAY, BUF and RXLEN only: no flag, no old result, nothing of CMD. -/
theorem exec_determined (i : Instr) (s : State) :
    ∃ (m : Memory) (e : ErrCode) (r : Results), ∀ s' : State,
      s'.cfg = s.cfg → s'.pay = s.pay → s'.epoch = s.epoch → s'.buf = s.buf → s'.rxlen = s.rxlen →
        exec i s' = .next (({ s' with buf := m } : State).complete e r) := by
  cases i with
  | encode p snd =>
    obtain ⟨f, e, r, hf⟩ := execEncode_determined p snd s
    exact ⟨f s.buf, e, r, fun s' hcfg hp he hb _ => hb ▸ hf s' hcfg hp he⟩
  | decodeHeader =>
    rcases Nat.lt_or_ge s.rxlen.toNat 10 with hshort | hlong
    · refine ⟨s.buf, .incompleteFrame, Results.zero, fun s' _ _ _ hb hx => ?_⟩
      rw [← hb]
      exact execDecodeHeader_short (hx ▸ hshort)
    · refine ⟨s.buf, .ok, s.headerResults, fun s' _ _ he hb hx => ?_⟩
      rw [← State.headerResults_congr hb he, ← hb]
      exact execDecodeHeader_ok (hx ▸ hlong)
  | decodeAck =>
    rcases Nat.lt_or_ge s.rxlen.toNat 6 with hshort | hlong
    · refine ⟨s.buf, .incompleteFrame, Results.zero, fun s' _ _ _ hb hx => ?_⟩
      rw [← hb]
      exact execDecodeAck_short (hx ▸ hshort)
    · by_cases h0 : s.memRead .buf 0 = 0x02
      · refine ⟨s.buf, .ok, s.ackResults, fun s' _ _ he hb hx => ?_⟩
        rw [← State.ackResults_congr hb he, ← hb]
        exact execDecodeAck_ok (hx ▸ hlong) ((State.memRead_buf_congr hb he 0).trans h0)
      · refine ⟨s.buf, .unexpectedFrameType, { Results.zero with errinfo := s.memRead .buf 0 },
          fun s' _ _ he hb hx => ?_⟩
        rw [← State.memRead_buf_congr hb he 0] at h0 ⊢
        rw [← hb]
        exact execDecodeAck_unexpected (hx ▸ hlong) h0
  | reservedOp3 => exact ⟨s.buf, .illegalCommand, _, fun s' _ _ _ hb _ => by rw [← hb]; rfl⟩

/-- An operation commutes with overwriting OVR: it neither reads nor writes the flag (R31, 60_exceptions.md R165). -/
theorem exec_with_ovr {i : Instr} (h : exec i s = .next u) (b : Bool) :
    exec i { s with status := { s.status with ovr := b } } =
      .next { u with status := { u.status with ovr := b } } := by
  obtain ⟨m, e, r, hx⟩ := exec_determined i s
  have hu := (hx s rfl rfl rfl rfl rfl).symm.trans h
  cases hu
  exact hx _ rfl rfl rfl rfl rfl

/-- ENCODE commutes with overwriting RXLEN: it neither reads nor writes the register (R35). -/
theorem exec_encode_with_rxlen {p : BitVec 3} {snd : Byte} (h : exec (.encode p snd) s = .next u)
    (k : Word) : exec (.encode p snd) { s with rxlen := k } = .next { u with rxlen := k } := by
  obtain ⟨f, e, r, hx⟩ := execEncode_determined p snd s
  have hu := (hx s rfl rfl rfl).symm.trans h
  cases hu
  exact hx _ rfl rfl rfl

end Operations

/-! ### What a step can do to CMD, OVR and the parameters -/

section Steps

variable {s t : State}

/-- R26, R33: the one access that changes CMD is a command write while BUSY = 0. -/
theorem hostAccess_cmd_cases {a : Access} (h : hostAccess a s = .next t) :
    t.cmd = s.cmd ∨ ∃ w, a = .regWrite 0x00 w ∧ s.status.busy = false ∧ t.cmd = Cmd.ofWord w := by
  rcases hostAccess_cases h with ⟨_, rfl⟩ | ⟨_, -, rfl⟩ | ⟨w, ha, rfl⟩ | ⟨_, -, rfl⟩ | ⟨_, -, -, rfl⟩ |
    ⟨_, _, -, -, -, rfl⟩ | ⟨_, _, -, -, -, rfl⟩
  case inr.inr.inl =>
    cases hb : s.status.busy with
    | true => exact .inl (by rw [s.writeCmd_busy w hb]; rfl)
    | false => exact .inr ⟨w, ha, rfl, by rw [s.writeCmd_idle w hb]; rfl⟩
  all_goals exact .inl rfl

/-- R31: OVR is set by a command write while BUSY = 1, and a STATUS write with bit 2 clears it; no other access
touches it. -/
theorem hostAccess_ovr_cases {a : Access} (h : hostAccess a s = .next t) :
    t.status.ovr = s.status.ovr ∨
    (∃ w, a = .regWrite 0x00 w ∧ s.status.busy = true ∧ t.status.ovr = true) ∨
    (∃ w, a = .regWrite 0x04 w ∧ w.getLsbD 2 = true ∧ t.status.ovr = false) := by
  rcases hostAccess_cases h with ⟨_, rfl⟩ | ⟨_, -, rfl⟩ | ⟨w, ha, rfl⟩ | ⟨w, ha, rfl⟩ | ⟨_, -, -, rfl⟩ |
    ⟨_, _, -, -, -, rfl⟩ | ⟨_, _, -, -, -, rfl⟩
  case inr.inr.inl =>
    cases hb : s.status.busy with
    | true => exact .inr (.inl ⟨w, ha, rfl, by rw [s.writeCmd_busy w hb]; rfl⟩)
    | false => exact .inl (by rw [s.writeCmd_idle w hb]; rfl)
  case inr.inr.inr.inl =>
    cases hw : w.getLsbD 2 with
    | true =>
      refine .inr (.inr ⟨w, ha, hw, (s.status.hostWritten_ovr w).trans ?_⟩)
      rw [hw, Bool.not_true, Bool.and_false]
    | false =>
      refine .inl ((s.status.hostWritten_ovr w).trans ?_)
      rw [hw, Bool.not_false, Bool.and_true]
  all_goals exact .inl rfl

theorem hostAccess_cfg {a : Access} (h : hostAccess a s = .next t) : t.cfg = s.cfg := by
  rcases hostAccess_cases h with ⟨_, rfl⟩ | ⟨_, -, rfl⟩ | ⟨w, -, rfl⟩ | ⟨_, -, rfl⟩ | ⟨_, -, -, rfl⟩ |
    ⟨_, _, -, -, -, rfl⟩ | ⟨_, _, -, -, -, rfl⟩
  case inr.inr.inl => rw [State.writeCmd]; split <;> rfl
  all_goals rfl

/-- R26 for a whole step: only a host's command write while BUSY = 0 and reset change CMD; a completion does not. -/
theorem step_cmd_cases (h : step s = .next t) :
    t.cmd = s.cmd ∨
    (∃ w rest, s.turns = .host (.regWrite 0x00 w) :: rest ∧ s.status.busy = false ∧ t.cmd = Cmd.ofWord w) ∨
    (∃ rest, s.turns = .reset :: rest ∧ t.cmd = State.reset.cmd ∧ t.status.busy = false) := by
  obtain ⟨rest, u, rfl, ⟨a, hturns, ha⟩ | ⟨hturns, rfl⟩ | ⟨-, ⟨-, rfl⟩ | ⟨-, hx⟩⟩⟩ := step_cases h
  · rcases hostAccess_cmd_cases ha with hc | ⟨w, rfl, hb, hc⟩
    · exact .inl hc
    · exact .inr (.inl ⟨w, rest, hturns, hb, hc⟩)
  · exact .inr (.inr ⟨rest, hturns, rfl, rfl⟩)
  · exact .inl rfl
  · obtain ⟨m, e, r, rfl⟩ := exec_eq_complete hx
    exact .inl rfl

/-- R31 for a whole step: a completion leaves OVR as it was. -/
theorem step_ovr_cases (h : step s = .next t) :
    t.status.ovr = s.status.ovr ∨
    (∃ w rest, s.turns = .host (.regWrite 0x00 w) :: rest ∧ s.status.busy = true ∧ t.status.ovr = true) ∨
    (∃ w rest, s.turns = .host (.regWrite 0x04 w) :: rest ∧ w.getLsbD 2 = true ∧ t.status.ovr = false) ∨
    (∃ rest, s.turns = .reset :: rest ∧ t.status.ovr = false) := by
  obtain ⟨rest, u, rfl, ⟨a, hturns, ha⟩ | ⟨hturns, rfl⟩ | ⟨-, ⟨-, rfl⟩ | ⟨-, hx⟩⟩⟩ := step_cases h
  · rcases hostAccess_ovr_cases ha with ho | ⟨w, rfl, hb, ho⟩ | ⟨w, rfl, hw, ho⟩
    · exact .inl ho
    · exact .inr (.inl ⟨w, rest, hturns, hb, ho⟩)
    · exact .inr (.inr (.inl ⟨w, rest, hturns, hw, ho⟩))
  · exact .inr (.inr (.inr ⟨rest, hturns, rfl⟩))
  · exact .inl rfl
  · obtain ⟨m, e, r, rfl⟩ := exec_eq_complete hx
    exact .inl rfl

/-- R7, R42: no step changes PACKET_MAX or PAY_BYTES. -/
theorem step_cfg (h : step s = .next t) : t.cfg = s.cfg := by
  obtain ⟨rest, u, rfl, ⟨a, -, ha⟩ | ⟨-, rfl⟩ | ⟨-, ⟨-, rfl⟩ | ⟨-, hx⟩⟩⟩ := step_cases h
  · have hcfg := hostAccess_cfg ha
    exact hcfg
  · rfl
  · rfl
  · obtain ⟨m, e, r, rfl⟩ := exec_eq_complete hx
    rfl

end Steps

end Sys2Proof.Machine

/-! ### The obligations -/

namespace Sys2Proof

open Sys2Proof.Machine Sys2Proof.Claims

/-- Settles O40, by the rule of a STATUS write. -/
theorem statusWriteClearsOnlyOvr : Obligations.StatusWriteClearsOnlyOvr := by
  intro s w
  rw [hostAccess_write_status, Status.hostWritten_eq]
  rfl

/-- Settles O42, by the rule of a write to a read-only register. -/
theorem readOnlyWritesHaveNoEffect : Obligations.ReadOnlyWritesHaveNoEffect :=
  fun s _ w hr => hostAccess_write_readOnly s w hr

/-- Settles O37, by the two branches of R33. -/
theorem commandWriteAcceptance : Obligations.CommandWriteAcceptance := by
  intro s w
  rw [hostAccess_write_cmd]
  constructor
  · intro hidle
    rw [s.writeCmd_idle w hidle]
    exact ⟨_, rfl, Cmd.toWord_ofWord w, rfl, rfl, rfl⟩
  · intro hbusy
    rw [s.writeCmd_busy w hbusy]
    rfl

/-- Settles O38: what a step can do to CMD, read as the command word. -/
theorem commandRegisterHoldsTheLastAcceptedCommand : Obligations.CommandRegisterHoldsTheLastAcceptedCommand := by
  refine ⟨fun s t h => ?_, fun s => ?_, fun s t hbusy h hbusy' => ?_, by decide, fun s hbusy => engineStep_busy hbusy⟩
  · rcases step_cmd_cases h with hc | ⟨w, rest, hturns, hidle, hc⟩ | ⟨rest, hturns, hc, -⟩
    · exact .inl (congrArg Cmd.toWord hc)
    · exact .inr (.inl ⟨w, rest, hturns, hidle, (congrArg Cmd.toWord hc).trans (Cmd.toWord_ofWord w)⟩)
    · exact .inr (.inr ⟨rest, hturns, (congrArg Cmd.toWord hc).trans (by decide)⟩)
  · obtain ⟨t, ht, -, hv⟩ := readAnswers_exact s (r := .cmd) (.inl rfl)
    exact ⟨t, ht, hv⟩
  · rcases step_cmd_cases h with hc | ⟨w, rest, -, hidle, -⟩ | ⟨rest, -, -, hidle⟩
    · exact congrArg Cmd.toWord hc
    · exact absurd (hbusy.symm.trans hidle) (by decide)
    · exact absurd (hbusy'.symm.trans hidle) (by decide)

/-- Settles O39: what a step can do to OVR, and that operations commute with overwriting it. -/
theorem overrunIsSticky : Obligations.OverrunIsSticky := by
  refine ⟨fun s t w rest hturns hbusy h => ?_, fun s t hset h hclear => ?_, fun s t hclear h hset => ?_,
    fun i s u b h => exec_with_ovr h b, fun s w hidle hset => ?_, rfl⟩
  · rw [step_cons hturns, runTurn, hostAccess_write_cmd, State.writeCmd_busy _ w (by exact hbusy)] at h
    cases h
    rfl
  · rcases step_ovr_cases h with ho | ⟨w, rest, -, -, ho⟩ | ⟨w, rest, hturns, hw, -⟩ | ⟨rest, hturns, -⟩
    · exact absurd (hset.symm.trans (ho.symm.trans hclear)) (by decide)
    · exact absurd (ho.symm.trans hclear) (by decide)
    · exact .inl ⟨w, rest, hturns, hw⟩
    · exact .inr ⟨rest, hturns⟩
  · rcases step_ovr_cases h with ho | ⟨w, rest, hturns, hbusy, -⟩ | ⟨w, rest, -, -, ho⟩ | ⟨rest, -, ho⟩
    · exact absurd (hset.symm.trans (ho.trans hclear)) (by decide)
    · exact ⟨w, rest, hturns, hbusy⟩
    · exact absurd (hset.symm.trans ho) (by decide)
    · exact absurd (hset.symm.trans ho) (by decide)
  · rw [hostAccess_write_cmd, s.writeCmd_idle w hidle]
    exact ⟨_, rfl, rfl, hset⟩

/-- Settles O41: the idle write, the read back, and ENCODE's independence of RXLEN. -/
theorem rxlenStoresTheMinimum : Obligations.RxlenStoresTheMinimum := by
  refine ⟨fun s w hidle => ?_, fun s u p snd k h => ⟨?_, exec_encode_with_rxlen h k⟩, rfl⟩
  · obtain ⟨u, hu, -, hv⟩ :=
      readAnswers_exact (({ s with rxlen := s.clampRxlen w } : State).answered .none) (r := .rxlen) (.inr (.inl rfl))
    exact ⟨_, u, hostAccess_write_rxlen_idle s w hidle, s.clampRxlen_toNat w, rfl, hu, hv⟩
  · obtain ⟨m, e, r, rfl⟩ := exec_eq_complete h
    rfl

/-- Settles O50: CAP reads exactly, is read-only, and no step changes the parameters. -/
theorem capIsHardwired : Obligations.CapIsHardwired := by
  refine ⟨fun s => ?_, fun s w => ?_, fun s t => step_cfg⟩
  · obtain ⟨t, ht, -, hv⟩ := readAnswers_exact s (r := .cap) (.inr (.inr rfl))
    exact ⟨t, ht, hv⟩
  · exact hostAccess_write_readOnly s w (r := .cap) (by simp [ReadOnly])

/-- Settles O43: every read answers `readWord`; its reserved bits, its exact parts and its fields. -/
theorem registerReads : Obligations.RegisterReads := by
  refine ⟨fun s r => ?_, fun s => ?_, fun s => ?_, fun s => ?_, fun s hidle => ?_⟩
  · refine ⟨s.readWord r, readAnswers_readWord s r, s.readWord_reserved r, hostAccess_read_idle s r,
      s.readWord_exact, ?_, ?_, fun hbusy hr hc => ?_⟩
    · rintro rfl
      exact s.readWord_status_flags
    · rintro hbusy rfl
      exact State.readWord_status_err_busy hbusy
    · rw [s.readWord_busy r hbusy, s.busyValue_readOnly hr hc]
  · exact ⟨_, readAnswers_exact s (r := .cmd) (.inl rfl), toNat_threeFields (by decide) (by decide) _ _ _⟩
  · obtain ⟨hbusy, hdone, hovr⟩ := s.readWord_status_bits
    refine ⟨_, readAnswers_readWord s .status, hbusy, hdone, hovr, fun hidle => ?_⟩
    rw [s.readWord_idle .status hidle]
    exact s.status.toWord_err
  · exact ⟨readAnswers_exact s (r := .rxlen) (.inr (.inl rfl)), readAnswers_exact s (r := .cap) (.inr (.inr rfl))⟩
  · exact ⟨readAnswers_idle s .txlen hidle,
      ⟨_, readAnswers_idle s .hdr hidle, toNat_threeFields le_rfl le_rfl _ _ _⟩,
      readAnswers_idle s .plen hidle,
      ⟨_, readAnswers_idle s .rsv hidle, toNat_threeFields le_rfl le_rfl _ _ _⟩,
      ⟨_, readAnswers_idle s .clock hidle, BitVec.toNat_setWidth_of_le (by decide)⟩,
      ⟨_, readAnswers_idle s .errinfo hidle, BitVec.toNat_setWidth_of_le (by decide)⟩⟩

end Sys2Proof
end

section
/-! PROOFS. The three host spaces (20_memory.md R50 to R56): one rule per access inside its space and one per access
outside it, and from them the obligations of the accesses' ranges. -/

namespace Sys2Proof.Machine

/-! ### The register map -/

section RegisterMap

variable (s : State) {off : Nat} (w : Word)

/-- R51: each of the ten offsets is the offset of a register. -/
theorem exists_offset_of_mem_offsets (h : off ∈ Reg.offsets) : ∃ r : Reg, off = r.offset := by
  cases e : regAt off with
  | none => exact absurd h (regAt_eq_none.mp e)
  | some r => exact ⟨r, regAt_eq_some e⟩

theorem hostAccess_regRead_busError (h : off ∉ Reg.offsets) :
    hostAccess (.regRead off) s = .fault (.busError .reg off) := by
  simp [hostAccess, hostRegRead, regAt_eq_none.mpr h]

theorem hostAccess_regWrite_busError (h : off ∉ Reg.offsets) :
    hostAccess (.regWrite off w) s = .fault (.busError .reg off) := by
  simp [hostAccess, hostRegWrite, regAt_eq_none.mpr h]

/-- 70_reset_and_hazards.md R195 for RXLEN. -/
theorem hostAccess_write_rxlen_busy (h : s.status.busy = true) :
    hostAccess (.regWrite 0x08 w) s = .fault (.hostHazard .rxlen) := by
  change hostWriteRxlen w s = _
  simp [hostWriteRxlen, h]

/-- A write at a register's offset completes, but for a busy write of RXLEN (R195). -/
theorem hostAccess_write_next_or_hazard (r : Reg) :
    (∃ t, hostAccess (.regWrite r.offset w) s = .next t) ∨
      hostAccess (.regWrite r.offset w) s = .fault (.hostHazard .rxlen) := by
  cases r with
  | cmd => exact .inl ⟨_, hostAccess_write_cmd s w⟩
  | status => exact .inl ⟨_, hostAccess_write_status s w⟩
  | rxlen =>
    cases hb : s.status.busy with
    | false => exact .inl ⟨_, hostAccess_write_rxlen_idle s w hb⟩
    | true => exact .inr (hostAccess_write_rxlen_busy s w hb)
  | txlen | hdr | plen | rsv | clock | errinfo | cap => exact .inl ⟨_, rfl⟩

end RegisterMap

/-! ### BUF and PAY -/

section ByteMemories

variable (s : State) {i : Nat} (v : Byte)

/-- No ENCODE is in flight on an idle block. -/
theorem State.encodeInFlight_idle (h : s.status.busy = false) : s.encodeInFlight = false := by
  simp [State.encodeInFlight, h]

/-- R53, and 70_reset_and_hazards.md R196: a BUF read is exact unless an ENCODE is in flight. -/
theorem hostAccess_bufRead_exact (hi : i < s.cfg.packetMax.toNat) (h : s.encodeInFlight = false) :
    hostAccess (.bufRead i) s = .next (s.answered (.byte (s.memRead .buf i))) := by
  simp [hostAccess, hostBufRead, hi, h]

theorem hostAccess_bufWrite_idle (hi : i < s.cfg.packetMax.toNat) (h : s.status.busy = false) :
    hostAccess (.bufWrite i v) s = .next ((s.memWrite .buf i v).answered .none) := by
  simp [hostAccess, hostBufWrite, hi, h]

theorem hostAccess_bufRead_busError (hi : s.cfg.packetMax.toNat ≤ i) :
    hostAccess (.bufRead i) s = .fault (.busError .buf i) :=
  if_neg (Nat.not_lt.mpr hi)

theorem hostAccess_bufWrite_busError (hi : s.cfg.packetMax.toNat ≤ i) :
    hostAccess (.bufWrite i v) s = .fault (.busError .buf i) :=
  if_neg (Nat.not_lt.mpr hi)

theorem hostAccess_payRead (hi : i < s.cfg.payBytes) :
    hostAccess (.payRead i) s = .next (s.answered (.byte (s.memRead .pay i))) :=
  if_pos hi

theorem hostAccess_payWrite_idle (hi : i < s.cfg.payBytes) (h : s.status.busy = false) :
    hostAccess (.payWrite i v) s = .next ((s.memWrite .pay i v).answered .none) := by
  simp [hostAccess, hostPayWrite, hi, h]

theorem hostAccess_payRead_busError (hi : s.cfg.payBytes ≤ i) :
    hostAccess (.payRead i) s = .fault (.busError .pay i) :=
  if_neg (Nat.not_lt.mpr hi)

theorem hostAccess_payWrite_busError (hi : s.cfg.payBytes ≤ i) :
    hostAccess (.payWrite i v) s = .fault (.busError .pay i) :=
  if_neg (Nat.not_lt.mpr hi)

variable (sp : MemSpace)

theorem State.memRead_memWrite_same : (s.memWrite sp i v).memRead sp i = v := by
  rw [State.memRead_memWrite, if_pos ⟨rfl, rfl⟩]

theorem State.memRead_memWrite_of_ne {a : Nat} (h : a ≠ i) :
    (s.memWrite sp i v).memRead sp a = s.memRead sp a := by
  rw [State.memRead_memWrite, if_neg fun e => h e.2]

end ByteMemories

end Sys2Proof.Machine

/-! ### The obligations -/

namespace Sys2Proof

open Sys2Proof.Machine

/-- Settles O45, by the rules of BUF inside and outside its range; PACKET_MAX = 0 leaves nothing inside. -/
theorem bufAccesses : Obligations.BufAccesses := by
  have outside : ∀ (s : State) (i : Nat) (v : Byte), s.cfg.packetMax.toNat ≤ i →
      hostAccess (.bufRead i) s = .fault (.busError .buf i) ∧
        hostAccess (.bufWrite i v) s = .fault (.busError .buf i) :=
    fun s _ v hi => ⟨hostAccess_bufRead_busError s hi, hostAccess_bufWrite_busError s v hi⟩
  refine ⟨fun s i hi hidle => ?_, fun s i v hi hidle => ?_, outside, fun s i v hzero => outside s i v ?_⟩
  · exact hostAccess_bufRead_exact s hi (s.encodeInFlight_idle hidle)
  · exact ⟨_, hostAccess_bufWrite_idle s v hi hidle, rfl, s.memRead_memWrite_same v .buf,
      fun a => s.memRead_memWrite_of_ne v .buf⟩
  · simp [hzero]

/-- Settles O46, by the rules of PAY inside and outside its range; its reads are exact while BUSY = 1 too. -/
theorem payAccesses : Obligations.PayAccesses := by
  refine ⟨fun s i hi => hostAccess_payRead s hi, fun s i v hi hidle => ?_, fun s i v hi => ?_⟩
  · exact ⟨_, hostAccess_payWrite_idle s v hi hidle, rfl, s.memRead_memWrite_same v .pay,
      fun a => s.memRead_memWrite_of_ne v .pay⟩
  · exact ⟨hostAccess_payRead_busError s hi, hostAccess_payWrite_busError s v hi⟩

/-- Settles O44: an offset is that of a register or leads nowhere. -/
theorem registerOffsets : Obligations.RegisterOffsets := by
  refine fun s off w => ⟨fun hout => ?_, fun hin => ?_⟩
  · exact ⟨hostAccess_regRead_busError s hout, hostAccess_regWrite_busError s w hout⟩
  · obtain ⟨r, rfl⟩ := exists_offset_of_mem_offsets hin
    obtain ⟨t, ht, -⟩ := readAnswers_readWord s r
    exact ⟨⟨t, ht⟩, hostAccess_write_next_or_hazard s w r⟩

end Sys2Proof
end

section
/-! PROOFS. The encodings (30_encoding.md R82, R83, R85, R90): the command word and what its reserved bits do, the
PacketType table against ENCODE, the commands that fail whatever the block holds, and the word of an ENCODE line. -/

namespace Sys2Proof

open Sys2Proof.Machine Sys2Proof.Claims

/-! ### The command word -/

section CommandWord

variable {w w' : Word} {p : BitVec 3} {snd : Byte}

/-- R83: a command word as a number. -/
theorem cmdWord_toNat (op : BitVec 2) (p : BitVec 3) (snd : Byte) :
    (cmdWord op p snd).toNat = snd.toNat * 2 ^ 16 + p.toNat * 2 ^ 8 + op.toNat :=
  toNat_threeFields (by decide) (by decide) snd p op

theorem encode_encode_toNat (p : BitVec 3) (snd : Byte) :
    (encode (.encode p snd)).toNat = snd.toNat * 2 ^ 16 + p.toNat * 2 ^ 8 := by
  rw [encode, cmdWord_toNat, BitVec.toNat_zero, Nat.add_zero]

theorem decodeWord_encode_encode (p : BitVec 3) (snd : Byte) : decodeWord (encode (.encode p snd)) = .encode p snd :=
  decodeWord_toWord { op := 0b00, ptype := p, sender := snd }

theorem decodeWord_of_opField_encode (h : opField w = 0b00#2) :
    decodeWord w = .encode (ptypeField w) (senderField w) := by
  simp [decodeWord, h]

theorem decodeWord_of_opField_reserved (h : opField w = 0b11#2) : decodeWord w = .reservedOp3 := by
  simp [decodeWord, h]

/-- R85 (c): but for ENCODE, OP alone selects the operation. -/
theorem decodeWord_congr_of_opField (h : opField w = opField w') (hne : opField w ≠ 0b00#2) :
    decodeWord w = decodeWord w' := by
  rw [decodeWord, decodeWord, ← h, if_neg hne, if_neg hne]

/-- R83: clearing the reserved bits of a word leaves the operation it selects. -/
theorem decodeWord_and_cmdMask (w : Word) : decodeWord (w &&& cmdMask) = decodeWord w := by
  rw [← Cmd.toWord_ofWord, decodeWord_ofWord]

namespace Machine

/-- CMD reads back as the word it holds. -/
@[simp] theorem Cmd.ofWord_toWord (c : Cmd) : Cmd.ofWord c.toWord = c := by
  simp [Cmd.ofWord, Cmd.toWord]

/-- CMD keeps no reserved bit of a written word (10_state.md R26). -/
theorem Cmd.ofWord_and_cmdMask (w : Word) : Cmd.ofWord (w &&& cmdMask) = Cmd.ofWord w := by
  rw [← Cmd.toWord_ofWord, Cmd.ofWord_toWord]

/-- R85 (d): two words that differ in reserved bits only have the same effect when written to CMD. -/
theorem hostAccess_write_cmd_congr (h : w &&& cmdMask = w' &&& cmdMask) (s : State) :
    hostAccess (.regWrite 0x00 w) s = hostAccess (.regWrite 0x00 w') s := by
  have hcmd : Cmd.ofWord w = Cmd.ofWord w' := by
    rw [← Cmd.ofWord_and_cmdMask w, h, Cmd.ofWord_and_cmdMask w']
  simp only [hostAccess_write_cmd, State.writeCmd, State.accept, hcmd]

end Machine

/-- R90: the number an ENCODE line writes to CMD is the word of that operation. -/
theorem encodeLine_word {ptype sender : Nat} (hp : ptype ≤ 7) (hs : sender ≤ 255) :
    BitVec.ofNat 32 (sender <<< 16 ||| ptype <<< 8) =
      encode (.encode (BitVec.ofNat 3 ptype) (BitVec.ofNat 8 sender)) := by
  have hlow : ptype <<< 8 < 2 ^ 16 := by rw [Nat.shiftLeft_eq]; omega
  apply BitVec.eq_of_toNat_eq
  rw [encode_encode_toNat, BitVec.toNat_ofNat, BitVec.toNat_ofNat, BitVec.toNat_ofNat,
    ← Nat.shiftLeft_add_eq_or_of_lt hlow, Nat.shiftLeft_eq, Nat.shiftLeft_eq]
  omega

end CommandWord

namespace Machine

/-! ### The PacketType table and ENCODE -/

section PacketTypes

variable {s u : State} {p : BitVec 3} {snd t q : Byte} {n : Nat}

/-- R82: the PTYPE values without a frame are those with no codes. -/
theorem selectCodes_eq_none_iff : selectCodes p = none ↔ NoFrame p := by
  unfold NoFrame
  revert p
  decide

/-- R82: the codes of the four PTYPE values with a frame. -/
theorem selectCodes_of_codes (h : Codes p t q) : selectCodes p = some (t, q) := by
  rcases h with ⟨rfl, rfl, rfl⟩ | ⟨rfl, rfl, rfl⟩ | ⟨rfl, rfl, rfl⟩ | ⟨rfl, rfl, rfl⟩ <;> rfl

/-- 41_frame_encoder.md R103, R104: the length ENCODE finds for a payload that fits. -/
theorem payloadLength_of_fits (hn : PayloadIs s n) (hf : Fits s n) : s.payloadLength = some n :=
  (s.payloadLength_eq_some n).mpr ⟨hf, hn⟩

/-- 41_frame_encoder.md R102. -/
theorem exec_encode_noFrame (h : NoFrame p) (snd : Byte) (s : State) :
    exec (.encode p snd) s = .next (s.raise .invalidPacketType 0) := by
  simp only [exec, execEncode, selectCodes_eq_none_iff.mpr h]

/-- 41_frame_encoder.md R106 to R108: ENCODE of a PTYPE with codes and a payload that fits. -/
theorem exec_encode_frame (hc : Codes p t q) (hn : PayloadIs s n) (hf : Fits s n) (snd : Byte) :
    exec (.encode p snd) s = .next
      ((s.writeFrame (frameBytes t snd q (s.payload n))).complete .ok (encodeResults t snd q n)) := by
  simp only [exec, execEncode, selectCodes_of_codes hc, payloadLength_of_fits hn hf, encodeResults]

/-- ENCODE ends with InvalidPacketType exactly where PTYPE has no frame (R82, R102). -/
theorem exec_encode_err_eq_four_iff (h : exec (.encode p snd) s = .next u) : u.status.err = 4 ↔ NoFrame p := by
  rw [← selectCodes_eq_none_iff]
  rcases execEncode_cases p snd s with ⟨hc, hx⟩ | ⟨_, hc, -, hx⟩ | ⟨_, _, _, hc, -, hx⟩
  · cases hx.symm.trans h
    exact iff_of_true rfl hc
  · cases hx.symm.trans h
    exact iff_of_false (by simp [ErrCode.code]) (by simp [hc])
  · cases hx.symm.trans h
    exact iff_of_false (by simp [ErrCode.code]) (by simp [hc])

/-- R82: bytes 0 and 5 of a frame that is sent are the type code and the priority of the table. -/
theorem exec_encode_codes (h : exec (.encode p snd) s = .next u) (hc : Codes p t q) (hn : PayloadIs s n)
    (hf : Fits s n) : bufAt u 0 = t ∧ bufAt u 5 = q ∧ u.status.err = 0 := by
  cases (exec_encode_frame hc hn hf snd).symm.trans h
  refine ⟨?_, ?_, rfl⟩
  · rw [bufAt, State.memRead_complete, State.memRead_writeFrame_buf]
    rfl
  · rw [bufAt, State.memRead_complete, State.memRead_writeFrame_buf]
    rfl

end PacketTypes

/-- A command that raises `e` in every state, written to an idle block: it is accepted, completes with the code of
`e`, and writes no memory (R85, 60_exceptions.md R168). -/
theorem write_cmd_raises {w : Word} {e : ErrCode} (hraise : ∀ v, exec (decodeWord w) v = .next (v.raise e 0))
    {s : State} (hidle : s.status.busy = false) :
    ∃ v x, hostAccess (.regWrite 0x00 w) s = .next v ∧ engineStep v = .next x ∧ x.status.err = e.code ∧
      (∀ a, bufAt x a = bufAt s a) ∧ ∀ a, payAt x a = payAt s a := by
  have haccept : hostAccess (.regWrite 0x00 w) s = .next ((s.accept w).answered .none) := by
    rw [hostAccess_write_cmd, s.writeCmd_idle w hidle]
  have hengine : engineStep ((s.accept w).answered .none) = .next (((s.accept w).answered .none).raise e 0) := by
    rw [engineStep_busy rfl, State.command_answered, State.command_accept, hraise]
  exact ⟨_, _, haccept, hengine, rfl, fun a => by simp [bufAt], fun a => by simp [payAt]⟩

end Machine

/-! ### The obligations -/

/-- Settles O2, by the fields of the command word: CMD keeps them and nothing else, and the decoder reads no more. -/
theorem commandWordLayout : Obligations.CommandWordLayout :=
  ⟨encode_encode_toNat, by decide, by decide, decodeWord_and_cmdMask,
    fun s w => hostAccess_write_cmd_congr (by rw [BitVec.and_assoc]; rfl) s,
    fun s => cmdWord_reserved s.cmd.op s.cmd.ptype s.cmd.sender⟩

/-- Settles O11, row by row of the table of R82. -/
theorem encodeOutcomeByPacketType : Obligations.EncodeOutcomeByPacketType := by
  intro s p snd
  obtain ⟨m, e, r, hx⟩ := exec_shape (.encode p snd) s
  refine ⟨_, hx, (exec_encode_err_eq_four_iff hx).symm, fun n hn hf => ?_⟩
  have row {t q : Byte} (hc : Codes p t q) := exec_encode_codes hx hc hn hf
  exact ⟨fun hp => row (.inl ⟨hp, rfl, rfl⟩), fun hp => row (.inr (.inl ⟨hp, rfl, rfl⟩)),
    fun hp => row (.inr (.inr (.inl ⟨hp, rfl, rfl⟩))), fun hp => row (.inr (.inr (.inr ⟨hp, rfl, rfl⟩)))⟩

/-- Settles O36: the two encodings that fail in every state, then the bits that select nothing. -/
theorem reservedEncodings : Obligations.ReservedEncodings := by
  refine ⟨fun w hop s hidle => ?_, fun w hop hp s hidle => ?_, fun w w' heq hop => ?_,
    fun w w' => hostAccess_write_cmd_congr⟩
  · refine write_cmd_raises (e := .illegalCommand) (fun v => ?_) hidle
    rw [decodeWord_of_opField_reserved hop]
    rfl
  · refine write_cmd_raises (e := .invalidPacketType) (fun v => ?_) hidle
    rw [decodeWord_of_opField_encode hop]
    exact exec_encode_noFrame hp _ v
  · refine decodeWord_congr_of_opField heq ?_
    rcases hop with hop | hop
    · rw [hop]; decide
    · rw [hop]; decide

/-- Settles O51: the word of an ENCODE line by its encoder, the other lines are their own definition. -/
theorem hostProgramNotation : Obligations.HostProgramNotation := by
  refine ⟨fun ptype sender hp hs => ⟨_, rfl, ?_, ?_⟩, ⟨_, rfl, rfl, by decide⟩, ⟨_, rfl, rfl, by decide⟩,
    fun _ => rfl, fun _ _ => rfl, fun _ => rfl, fun _ _ => rfl, fun _ => rfl, fun _ _ => rfl, fun _ => rfl,
    by decide, regAt_offset, by decide⟩
  · rw [encodeLine_word hp hs, encode_encode_toNat, BitVec.toNat_ofNat, BitVec.toNat_ofNat]
    omega
  · rw [encodeLine_word hp hs, decodeWord_encode_encode]

end Sys2Proof
end

section
/-! PROOFS. The frame encoder (41_frame_encoder.md R102 to R114): the state a sent frame leaves, cell by cell and
register by register, the two ways ENCODE fails, and from them the obligations of ENCODE. -/

namespace Sys2Proof.Machine

open Sys2Proof.Claims

/-! ### The frame in BUF -/

section EncodedFrame

/-- The state a successful ENCODE of `n` payload bytes leaves (41_frame_encoder.md R106 to R108). -/
def State.encoded (s : State) (t snd q : Byte) (n : Nat) : State :=
  (s.writeFrame (frameBytes t snd q (s.payload n))).complete .ok (encodeResults t snd q n)

variable {s : State} {p : BitVec 3} {t snd q : Byte} {n a : Nat}

theorem exec_encode_eq_encoded (hc : Codes p t q) (hn : PayloadIs s n) (hf : Fits s n) :
    exec (.encode p snd) s = .next (s.encoded t snd q n) :=
  exec_encode_frame hc hn hf snd

@[simp] theorem State.encoded_err : (s.encoded t snd q n).status.err = 0 := rfl

theorem bufAt_encoded :
    bufAt (s.encoded t snd q n) a = (frameBytes t snd q (s.payload n)).getD a (bufAt s a) := by
  rw [State.encoded, bufAt, State.memRead_complete, State.memRead_writeFrame_buf]

/-- R106: the ten header cells; the length field carries `n`. -/
theorem bufAt_encoded_header (ha : a < 10) :
    bufAt (s.encoded t snd q n) a = ([t, 0x00, 0x00, 0x00, snd, q] ++ be32 (BitVec.ofNat 32 n))[a] := by
  rw [bufAt_encoded, frameBytes, State.payload_length, List.getD_append (h := ha)]
  exact List.getD_eq_getElem _ _ ha

/-- R107: behind the header stands the payload. -/
theorem bufAt_encoded_payload {j : Nat} (hj : j < n) : bufAt (s.encoded t snd q n) (10 + j) = payAt s j := by
  rw [bufAt_encoded, List.getD_eq_getElem?_getD, frameBytes_payload]
  simp [State.payload, hj]

/-- R107: the frame ends at index 9 + n. -/
theorem bufAt_encoded_beyond (ha : 10 + n ≤ a) : bufAt (s.encoded t snd q n) a = bufAt s a := by
  rw [bufAt_encoded, List.getD_eq_default]
  simpa using ha

/-- R107: what a cell of the frame holds does not depend on what BUF held. -/
theorem bufAt_encoded_written (m : Memory) (ha : a < 10 + n) :
    bufAt (({ s with buf := m } : State).encoded t snd q n) a = bufAt (s.encoded t snd q n) a := by
  have hlen : a < (frameBytes t snd q (s.payload n)).length := by simpa using ha
  calc bufAt (({ s with buf := m } : State).encoded t snd q n) a
      = (frameBytes t snd q (s.payload n)).getD a (bufAt { s with buf := m } a) := bufAt_encoded
    _ = (frameBytes t snd q (s.payload n))[a] := List.getD_eq_getElem _ _ hlen
    _ = bufAt (s.encoded t snd q n) a := by rw [bufAt_encoded, List.getD_eq_getElem _ _ hlen]

/-- R106, R107: BUF read back from index 0 is the frame. -/
theorem map_bufAt_encoded :
    (List.range (10 + n)).map (bufAt (s.encoded t snd q n)) = frameBytes t snd q (s.payload n) := by
  refine List.ext_getElem (by simp) fun i _ hi => ?_
  rw [List.getElem_map, List.getElem_range, bufAt_encoded, List.getD_eq_getElem _ _ hi]

/-- R112: the priority is byte 5 of the frame and stands nowhere else. -/
theorem frameBytes_set_priority (t snd q q' : Byte) (bs : List Byte) :
    (frameBytes t snd q bs).set 5 q' = frameBytes t snd q' bs := rfl

theorem bufAt_encoded_of_ne_five (q' : Byte) (ha : a ≠ 5) :
    bufAt (s.encoded t snd q n) a = bufAt (s.encoded t snd q' n) a := by
  rw [bufAt_encoded, bufAt_encoded, ← frameBytes_set_priority t snd q q', List.getD_eq_getElem?_getD,
    List.getD_eq_getElem?_getD, List.getElem?_set_ne ha.symm]

/-- The size of a frame that fits is a 32-bit number: PACKET_MAX is a word (00_scope.md R7). -/
theorem frame_lt_of_fits (hf : Fits s n) : 10 + n < 2 ^ 32 :=
  hf.trans_lt s.cfg.packetMax.isLt

theorem payload_lt_of_fits (hf : Fits s n) : n < 2 ^ 32 :=
  (Nat.le_add_left n 10).trans_lt (frame_lt_of_fits hf)

/-- 00_scope.md R14: a byte of a 32-bit number, as a number. -/
theorem extractLsb'_ofNat_toNat (hn : n < 2 ^ 32) (k : Nat) :
    ((BitVec.ofNat 32 n).extractLsb' k 8).toNat = n / 2 ^ k % 256 := by
  rw [BitVec.extractLsb'_toNat, BitVec.toNat_ofNat, Nat.mod_eq_of_lt hn, Nat.shiftRight_eq_div_pow]

end EncodedFrame

/-! ### The errors of ENCODE -/

section Errors

variable {s : State} {p : BitVec 3} {t snd q : Byte} {n : Nat}

/-- 30_encoding.md R82: a PTYPE has codes or no frame. -/
theorem noFrame_or_codes (p : BitVec 3) : NoFrame p ∨ ∃ t q, Codes p t q := by
  have hp : NoFrame p ∨ p = 0 ∨ p = 2 ∨ p = 3 ∨ p = 4 := by
    unfold NoFrame
    revert p
    decide
  rcases hp with hp | rfl | rfl | rfl | rfl
  · exact .inl hp
  · exact .inr ⟨_, _, .inl ⟨rfl, rfl, rfl⟩⟩
  · exact .inr ⟨_, _, .inr (.inl ⟨rfl, rfl, rfl⟩)⟩
  · exact .inr ⟨_, _, .inr (.inr (.inl ⟨rfl, rfl, rfl⟩))⟩
  · exact .inr ⟨_, _, .inr (.inr (.inr ⟨rfl, rfl, rfl⟩))⟩

/-- R105: no terminator within the limit. -/
theorem exec_encode_tooLarge (hc : Codes p t q) (h : ∀ j, 10 + j ≤ s.cfg.packetMax.toNat → payAt s j ≠ 0x00) :
    exec (.encode p snd) s = .next (s.raise .frameTooLarge 0) := by
  simp only [exec, execEncode, selectCodes_of_codes hc, s.payloadLength_eq_none.mpr h]

/-- R103: a payload that does not fit ends beyond the limit. -/
theorem exec_encode_of_not_fits (hc : Codes p t q) (hn : PayloadIs s n) (hf : ¬ Fits s n) :
    exec (.encode p snd) s = .next (s.raise .frameTooLarge 0) := by
  refine exec_encode_tooLarge hc fun j hj => hn.2 j ?_
  unfold Fits at hf
  omega

/-- 60_exceptions.md R165: an error without information completes with every result 0. -/
theorem completed_raise (s : State) (e : ErrCode) : Completed s (s.raise e 0) e.code Results.zero where
  results := rfl
  err := rfl
  busy := rfl
  done := rfl
  kept := ⟨rfl, rfl, rfl, rfl, fun _ => rfl, rfl, rfl, rfl, rfl⟩

/-- R108: on failure every result register is 0. -/
theorem exec_encode_failed_results {u : State} (h : exec (.encode p snd) s = .next u) (herr : u.status.err ≠ 0) :
    u.results = Results.zero := by
  rcases execEncode_cases p snd s with ⟨-, hx⟩ | ⟨_, -, -, hx⟩ | ⟨_, _, _, -, -, hx⟩
  · cases hx.symm.trans h
    rfl
  · cases hx.symm.trans h
    rfl
  · cases hx.symm.trans h
    exact absurd rfl herr

end Errors

end Sys2Proof.Machine

/-! ### The obligations -/

namespace Sys2Proof

open Sys2Proof.Machine Sys2Proof.Claims

/-- Settles O8, cell by cell of the header. -/
theorem encodeWritesTheHeader : Obligations.EncodeWritesTheHeader := by
  intro s p snd t q n hc hn hf
  have hlt : n < 2 ^ 32 := payload_lt_of_fits hf
  have cell {a : Nat} (ha : a < 10) := bufAt_encoded_header (s := s) (t := t) (snd := snd) (q := q) (n := n) ha
  have byte (k : Nat) := extractLsb'_ofNat_toNat hlt k
  refine ⟨_, exec_encode_eq_encoded hc hn hf, rfl, cell (by decide), cell (by decide), cell (by decide),
    cell (by decide), cell (by decide), cell (by decide), ?_, ?_, ?_, ?_, hlt⟩
  · rw [cell (by decide)]
    exact (byte 24).trans (Nat.mod_eq_of_lt (by omega))
  · rw [cell (by decide)]
    exact byte 16
  · rw [cell (by decide)]
    exact byte 8
  · rw [cell (by decide)]
    exact (byte 0).trans (by rw [Nat.pow_zero, Nat.div_one])

/-- Settles O9: the frame's cells are its bytes, and the cells behind it are those of before. -/
theorem encodeCopiesThePayload : Obligations.EncodeCopiesThePayload := by
  intro s p snd t q n hc hn hf
  exact ⟨_, exec_encode_eq_encoded hc hn hf, rfl, fun _ => bufAt_encoded_payload, fun _ => bufAt_encoded_beyond,
    fun m => ⟨_, exec_encode_eq_encoded (s := { s with buf := m }) hc hn hf, fun _ => bufAt_encoded_written m⟩⟩

/-- Settles O10: the results of a frame that is sent lose nothing in their registers, a failure has none. -/
theorem encodeResultRegisters : Obligations.EncodeResultRegisters := by
  refine ⟨fun s p snd t q n hc hn hf => ?_, fun s u p snd h herr => exec_encode_failed_results h herr⟩
  exact ⟨_, exec_encode_eq_encoded hc hn hf, Nat.mod_eq_of_lt (frame_lt_of_fits hf), rfl, rfl, rfl,
    toNat_threeFields le_rfl le_rfl q snd t, Nat.mod_eq_of_lt (payload_lt_of_fits hf), rfl, rfl, rfl, rfl⟩

/-- Settles O12: the error is raised from the block as it stands, PAY unread. -/
theorem encodeRejectsInvalidPacketType : Obligations.EncodeRejectsInvalidPacketType := by
  intro s p snd h
  exact ⟨_, exec_encode_noFrame h snd s, completed_raise s .invalidPacketType,
    fun a => s.memRead_raise .buf a _ _, fun pay' => exec_encode_noFrame h snd { s with pay := pay' }⟩

/-- Settles O13: with no room for a header no index is within the limit; otherwise the payload fits or does not. -/
theorem encodeSizeLimit : Obligations.EncodeSizeLimit := by
  refine ⟨fun s p snd t q hc hmax => ?_, fun s p snd t q n hc hn => ?_⟩
  · exact ⟨_, exec_encode_tooLarge hc fun j hj => by omega, rfl⟩
  · by_cases hf : Fits s n
    · refine ⟨_, exec_encode_eq_encoded hc hn hf, ?_⟩
      unfold Fits at hf
      exact ⟨iff_of_true rfl (by omega), iff_of_false (by simp) (by omega)⟩
    · refine ⟨_, exec_encode_of_not_fits hc hn hf, ?_⟩
      unfold Fits at hf
      exact ⟨iff_of_false (by simp [ErrCode.code]) (by omega), iff_of_true rfl (by omega)⟩

/-- Settles O14: the scan finds no terminator. -/
theorem encodeRejectsLongPayload : Obligations.EncodeRejectsLongPayload := by
  intro s p snd t q hc h
  exact ⟨_, exec_encode_tooLarge hc h, completed_raise s .frameTooLarge, fun a => s.memRead_raise .buf a _ _⟩

/-- Settles O17: the two states have the same payload, so that ENCODE takes the same of its three ways from both. -/
theorem encodeIgnoresBytesAfterTheTerminator : Obligations.EncodeIgnoresBytesAfterTheTerminator := by
  intro s pay' p snd n hn hagree
  have hn' : PayloadIs { s with pay := pay' } n :=
    ⟨(hagree n le_rfl).trans hn.1, fun j hj => (hagree j hj.le).trans_ne (hn.2 j hj)⟩
  have hpay : ({ s with pay := pay' } : State).payload n = s.payload n :=
    List.map_congr_left fun j hj => hagree j (List.mem_range.mp hj).le
  rcases noFrame_or_codes p with hp | ⟨t, q, hc⟩
  · exact ⟨_, exec_encode_noFrame hp snd s, exec_encode_noFrame hp snd _⟩
  · by_cases hf : Fits s n
    · refine ⟨_, exec_encode_eq_encoded hc hn hf, ?_⟩
      rw [exec_encode_eq_encoded hc hn' hf, State.encoded, hpay]
      rfl
    · exact ⟨_, exec_encode_of_not_fits hc hn hf, exec_encode_of_not_fits hc hn' hf⟩

/-- Settles O18: the two PTYPE values have the same type code, and the priority is byte 5 alone. -/
theorem heartbeatDiffersFromStatusInPriorityAlone : Obligations.HeartbeatDiffersFromStatusInPriorityAlone := by
  intro s snd n hn hf
  have hheartbeat : Codes 3 0x02 0x01 := .inr (.inr (.inl ⟨rfl, rfl, rfl⟩))
  have hstatus : Codes 2 0x02 0x02 := .inr (.inl ⟨rfl, rfl, rfl⟩)
  exact ⟨_, _, exec_encode_eq_encoded hheartbeat hn hf, exec_encode_eq_encoded hstatus hn hf,
    bufAt_encoded_header (by decide), bufAt_encoded_header (by decide), bufAt_encoded_header (by decide),
    bufAt_encoded_header (by decide), fun _ => bufAt_encoded_of_ne_five 0x02⟩

/-- Settles O19: the word is ENCODE of a ClientRegister, PAY holds the 5 bytes of "hello", and BUF reads back as
their frame. -/
theorem encodeWorkedExample : Obligations.EncodeWorkedExample := by
  intro s hmax h0 h1 h2 h3 h4 h5
  have hword : decodeWord 0x00070000#32 = .encode 0 7 := by decide
  have hregister : Codes 0 0x00 0x02 := .inl ⟨rfl, rfl, rfl⟩
  have hhdr : (encodeResults 0x00 7 0x02 5).hdr.toWord = 0x00020700#32 := by decide
  have hpay : s.payload 5 = [0x68, 0x65, 0x6C, 0x6C, 0x6F] := by
    simp [State.payload, List.range_succ, h0, h1, h2, h3, h4]
  have hn : PayloadIs s 5 := by
    refine ⟨h5, fun j hj => ?_⟩
    interval_cases j <;> simp [h0, h1, h2, h3, h4]
  refine ⟨s.encoded 0x00 7 0x02 5, hword ▸ exec_encode_eq_encoded hregister hn hmax, ?_, rfl, hhdr, rfl, rfl⟩
  rw [map_bufAt_encoded (n := 5), hpay]
  decide

end Sys2Proof
end

section
/-! PROOFS. The frame decoder (42_frame_decoder.md R130 to R149): what each decoder can answer, which cells of BUF its
results come from, the nibbles of the clock value, and from them the obligations of DECODE_HEADER and DECODE_ACK. -/

namespace Sys2Proof.Machine

open Sys2Proof.Claims

/-! ### What a decoder answers -/

section Answers

variable {s u : State}

/-- 60_exceptions.md R165: a completion writes the results and the flags it says, and nothing else. -/
theorem completed_complete (s : State) (e : ErrCode) (r : Results) : Completed s (s.complete e r) e.code r where
  results := rfl
  err := rfl
  busy := rfl
  done := rfl
  kept := ⟨rfl, rfl, rfl, rfl, fun _ => rfl, rfl, rfl, rfl, rfl⟩

theorem bufAt_complete (s : State) (e : ErrCode) (r : Results) (a : Nat) : bufAt (s.complete e r) a = bufAt s a :=
  s.memRead_complete .buf a e r

/-- R130: DECODE_HEADER fails on a short header or reports the header. -/
theorem exec_decodeHeader_cases (h : exec .decodeHeader s = .next u) :
    (s.rxlen.toNat < 10 ∧ u = s.raise .incompleteFrame 0) ∨
    (10 ≤ s.rxlen.toNat ∧ u = s.complete .ok s.headerResults) := by
  rcases Nat.lt_or_ge s.rxlen.toNat 10 with hshort | hlong
  · cases (execDecodeHeader_short hshort).symm.trans h
    exact .inl ⟨hshort, rfl⟩
  · cases (execDecodeHeader_ok hlong).symm.trans h
    exact .inr ⟨hlong, rfl⟩

/-- R140: DECODE_ACK fails on a short ack, then on another frame type, or reports the ack. -/
theorem exec_decodeAck_cases (h : exec .decodeAck s = .next u) :
    (s.rxlen.toNat < 6 ∧ u = s.raise .incompleteFrame 0) ∨
    (6 ≤ s.rxlen.toNat ∧ bufAt s 0 ≠ 0x02 ∧ u = s.raise .unexpectedFrameType (bufAt s 0)) ∨
    (6 ≤ s.rxlen.toNat ∧ bufAt s 0 = 0x02 ∧ u = s.complete .ok s.ackResults) := by
  rcases Nat.lt_or_ge s.rxlen.toNat 6 with hshort | hlong
  · cases (execDecodeAck_short hshort).symm.trans h
    exact .inl ⟨hshort, rfl⟩
  · by_cases h0 : bufAt s 0 = 0x02
    · cases (execDecodeAck_ok hlong h0).symm.trans h
      exact .inr (.inr ⟨hlong, h0, rfl⟩)
    · cases (execDecodeAck_unexpected hlong h0).symm.trans h
      exact .inr (.inl ⟨hlong, h0, rfl⟩)

/-- R147: a decoder completes the block as it stands; it writes neither memory. -/
theorem exec_decoder_eq_complete {i : Instr} (hi : i = .decodeHeader ∨ i = .decodeAck) (h : exec i s = .next u) :
    ∃ e r, u = s.complete e r := by
  rcases hi with rfl | rfl
  · rcases exec_decodeHeader_cases h with ⟨-, rfl⟩ | ⟨-, rfl⟩
    · exact ⟨_, _, rfl⟩
    · exact ⟨_, _, rfl⟩
  · rcases exec_decodeAck_cases h with ⟨-, rfl⟩ | ⟨-, -, rfl⟩ | ⟨-, -, rfl⟩
    · exact ⟨_, _, rfl⟩
    · exact ⟨_, _, rfl⟩
    · exact ⟨_, _, rfl⟩

end Answers

/-! ### The cells the results come from -/

section Cells

variable {s s' : State} {t snd q : Byte} {n : Nat}

/-- R134: the results of DECODE_HEADER come from BUF[0..9]. -/
theorem State.headerResults_congr_cells (h : ∀ a, a < 10 → bufAt s' a = bufAt s a) :
    s'.headerResults = s.headerResults := by
  simp (disch := decide) only [State.headerResults, h]

/-- R144: the results of DECODE_ACK come from BUF[0..5]. -/
theorem State.ackResults_congr_cells (h : ∀ a, a < 6 → bufAt s' a = bufAt s a) :
    s'.ackResults = s.ackResults := by
  simp (disch := decide) only [State.ackResults, h]

/-- R135: of a frame that ENCODE wrote, DECODE_HEADER reports what ENCODE reported but for the frame size. -/
theorem State.headerResults_encoded :
    (s.encoded t snd q n).headerResults = { encodeResults t snd q n with txlen := 0 } := by
  have cell {a : Nat} (ha : a < 10) := bufAt_encoded_header (s := s) (t := t) (snd := snd) (q := q) (n := n) ha
  simp (disch := decide) only [State.headerResults, cell]
  exact congrArg (fun k => { encodeResults t snd q n with txlen := 0, plen := k }) (fromBe32_be32 (BitVec.ofNat 32 n))

/-- R142: an ack's type code is 0x02, and it carries no priority. -/
theorem State.ackResults_hdr (h0 : bufAt s 0 = 0x02) :
    s.ackResults.hdr = { typeCode := 0x02, sender := bufAt s 1, prio := 0 } := by
  rw [State.ackResults, show s.memRead .buf 0 = 0x02 from h0]

end Cells

/-! ### The clock value -/

section Clock

variable (b2 b3 b4 b5 : Byte)

/-- R143: the clock value on numbers. -/
theorem clockValue_toNat :
    (clockValue b2 b3 b4 b5).toNat =
      (b2.toNat * 2 ^ 12 ||| b3.toNat * 2 ^ 8 ||| b4.toNat * 2 ^ 4 ||| b5.toNat) % 2 ^ 16 := by
  rw [clockValue, BitVec.toNat_ofNat, clockRaw, Nat.shiftLeft_eq, Nat.shiftLeft_eq, Nat.shiftLeft_eq]

/-- R143: the nibbles of the clock value; adjacent bytes overlap in one, and the high nibble of `b2` is in none. -/
theorem clockValue_nibbles :
    (clockValue b2 b3 b4 b5).extractLsb' 12 4 = b2.extractLsb' 0 4 ||| b3.extractLsb' 4 4 ∧
    (clockValue b2 b3 b4 b5).extractLsb' 8 4 = b3.extractLsb' 0 4 ||| b4.extractLsb' 4 4 ∧
    (clockValue b2 b3 b4 b5).extractLsb' 4 4 = b4.extractLsb' 0 4 ||| b5.extractLsb' 4 4 ∧
    (clockValue b2 b3 b4 b5).extractLsb' 0 4 = b5.extractLsb' 0 4 := by
  rw [clockValue_eq]
  refine ⟨?_, ?_, ?_, ?_⟩
  all_goals ext i hi; interval_cases i <;> simp

/-- R143: the high nibble of BUF[2] is shifted out. -/
theorem clockValue_congr_low_nibble {b b2 : Byte} (h : b.extractLsb' 0 4 = b2.extractLsb' 0 4) :
    clockValue b b3 b4 b5 = clockValue b2 b3 b4 b5 := by
  have hshift (c : Byte) : c.setWidth 16 <<< 12 = (c.extractLsb' 0 4).setWidth 16 <<< 12 := by
    ext i hi
    interval_cases i <;> simp
  rw [clockValue_eq, clockValue_eq, hshift b, hshift b2, h]

/-- R143: writing another high nibble to BUF[2] leaves every result of DECODE_ACK. -/
theorem State.ackResults_memWrite_high_nibble {s : State} {b : Byte}
    (h : b.extractLsb' 0 4 = (bufAt s 2).extractLsb' 0 4) : (s.memWrite .buf 2 b).ackResults = s.ackResults := by
  simp (disch := decide) only [State.ackResults, State.memRead_memWrite_same, State.memRead_memWrite_of_ne,
    clockValue_congr_low_nibble _ _ _ h]

end Clock

/-! ### The host's part of a round trip -/

section RoundTrip

variable {s : State} {n : Nat}

/-- 10_state.md R35: the size of a frame that fits is kept by RXLEN as it is. -/
theorem State.clampRxlen_of_fits (hf : Fits s n) : (s.clampRxlen (BitVec.ofNat 32 (10 + n))).toNat = 10 + n := by
  rw [State.clampRxlen_toNat, BitVec.toNat_ofNat, Nat.mod_eq_of_lt (frame_lt_of_fits hf)]
  exact Nat.min_eq_left hf

/-- 10_state.md R33, 60_exceptions.md R160: a command word written to an idle block is what the engine executes next. -/
theorem hostAccess_write_cmd_idle (hidle : s.status.busy = false) (w : Word) :
    hostAccess (.regWrite 0x00 w) s = .next ((s.accept w).answered .none) ∧
      engineStep ((s.accept w).answered .none) = exec (decodeWord w) ((s.accept w).answered .none) := by
  rw [hostAccess_write_cmd, s.writeCmd_idle w hidle, engineStep_busy rfl, State.command_answered,
    State.command_accept]
  exact ⟨rfl, rfl⟩

/-- The DECODE_HEADER word written to an idle block that has received a header: the engine's next step reports it. -/
theorem write_decodeHeader_reports (hidle : s.status.busy = false) (hlong : 10 ≤ s.rxlen.toNat) :
    ∃ w x, hostAccess (.regWrite 0x00 0x00000001#32) s = .next w ∧ engineStep w = .next x ∧
      x.status.err = 0 ∧ x.results = s.headerResults := by
  obtain ⟨haccept, hengine⟩ := hostAccess_write_cmd_idle hidle 0x00000001#32
  have hword : decodeWord 0x00000001#32 = .decodeHeader := by decide
  rw [hword] at hengine
  exact ⟨_, _, haccept, hengine.trans (execDecodeHeader_ok hlong), rfl, State.headerResults_congr rfl rfl⟩

end RoundTrip

end Sys2Proof.Machine

/-! ### The obligations -/

namespace Sys2Proof

open Sys2Proof.Machine Sys2Proof.Claims

/-- Settles O20: along the round trip the ten header cells stay those of the frame, and DECODE_HEADER reports them. -/
theorem encodeThenDecodeHeaderRoundTrip : Obligations.EncodeThenDecodeHeaderRoundTrip := by
  intro s p snd t q n hc hn hf
  refine ⟨_, exec_encode_eq_encoded hc hn hf, rfl, rfl, fun u' hcfg hidle hcells => ?_⟩
  have hf' : Fits u' n := by rwa [Fits, hcfg]
  refine ⟨_, hostAccess_write_rxlen_idle u' _ hidle, fun v' hrxlen hidle' hcells' => ?_⟩
  have hlong : 10 ≤ v'.rxlen.toNat := by
    rw [hrxlen]
    exact (Nat.le_add_right 10 n).trans_eq (State.clampRxlen_of_fits hf').symm
  have hframe : v'.headerResults = { encodeResults t snd q n with txlen := 0 } := calc
    v'.headerResults = (s.encoded t snd q n).headerResults :=
      State.headerResults_congr_cells fun a ha => (hcells' a ha).trans (hcells a ha)
    _ = _ := State.headerResults_encoded
  obtain ⟨w, x, hwrite, hengine, herr, hres⟩ := write_decodeHeader_reports hidle' hlong
  rw [hframe] at hres
  exact ⟨w, x, hwrite, hengine, herr, (congrArg Results.hdr hres :),
    (congrArg (·.plen.toNat) hres).trans (Nat.mod_eq_of_lt (payload_lt_of_fits hf)), (congrArg Results.rsv hres :)⟩

/-- Settles O21: DECODE_HEADER accepts every header, and its length field is the big-endian number. -/
theorem decodeHeaderReportsTheHeader : Obligations.DecodeHeaderReportsTheHeader := by
  intro s hlong
  exact ⟨_, execDecodeHeader_ok hlong, completed_complete s .ok _, bufAt_complete s _ _, rfl, rfl,
    fromBe32_toNat _ _ _ _, rfl, rfl, rfl⟩

/-- Settles O22: the error is raised from the block as it stands, BUF unread. -/
theorem decodeHeaderShortIsIncomplete : Obligations.DecodeHeaderShortIsIncomplete := by
  intro s hshort
  exact ⟨_, execDecodeHeader_short hshort, completed_raise s .incompleteFrame, bufAt_complete s _ _,
    fun buf' => execDecodeHeader_short (s := { s with buf := buf' }) hshort⟩

/-- Settles O23: both states succeed, and their results come from the same ten cells. -/
theorem decodeHeaderNeedsTheHeaderAlone : Obligations.DecodeHeaderNeedsTheHeaderAlone := by
  intro s buf' k hlong hk hcells
  have hsame : ({ s with buf := buf', rxlen := k } : State).headerResults = s.headerResults :=
    State.headerResults_congr_cells hcells
  refine ⟨_, execDecodeHeader_ok hlong, rfl, ?_⟩
  rw [← hsame]
  exact execDecodeHeader_ok hk

/-- Settles O24: the results of an ack are its sender and its clock. -/
theorem decodeAckExtractsTheSender : Obligations.DecodeAckExtractsTheSender := by
  intro s hlong h0
  refine ⟨_, execDecodeAck_ok hlong h0, completed_complete s .ok _, bufAt_complete s _ _,
    State.ackResults_hdr h0, ?_, rfl, rfl, rfl, rfl⟩
  rw [State.complete_results, State.ackResults_hdr h0, Hdr.toWord, toNat_threeFields le_rfl le_rfl]
  simp

/-- Settles O25: the value on numbers and nibble by nibble; another high nibble of BUF[2] leaves every result. -/
theorem decodeAckClockValue : Obligations.DecodeAckClockValue := by
  intro s hlong h0
  obtain ⟨hn3, hn2, hn1, hn0⟩ := clockValue_nibbles (bufAt s 2) (bufAt s 3) (bufAt s 4) (bufAt s 5)
  refine ⟨_, execDecodeAck_ok hlong h0, clockValue_toNat _ _ _ _, hn3, hn2, hn1, hn0, fun b hb => ?_⟩
  change exec .decodeAck (s.memWrite .buf 2 b) = .next ((s.memWrite .buf 2 b).complete .ok s.ackResults)
  rw [← State.ackResults_memWrite_high_nibble hb]
  exact execDecodeAck_ok hlong ((s.memRead_memWrite_of_ne b .buf (by decide)).trans h0)

/-- Settles O26: the error carries the first byte in ERRINFO. -/
theorem decodeAckRejectsOtherTypes : Obligations.DecodeAckRejectsOtherTypes := by
  intro s hlong h0
  exact ⟨_, execDecodeAck_unexpected hlong h0, completed_complete s .unexpectedFrameType _, bufAt_complete s _ _⟩

/-- Settles O27: the error is raised from the block as it stands, BUF unread. -/
theorem decodeAckShortIsIncomplete : Obligations.DecodeAckShortIsIncomplete := by
  intro s hshort
  exact ⟨_, execDecodeAck_short hshort, completed_raise s .incompleteFrame, bufAt_complete s _ _,
    fun buf' => execDecodeAck_short (s := { s with buf := buf' }) hshort⟩

/-- Settles O28: of the three outcomes of DECODE_ACK the two that fail report at most the offending byte. -/
theorem decodeAckLeavesNoPartialState : Obligations.DecodeAckLeavesNoPartialState := by
  intro s u h herr
  have hhdr : Results.zero.hdr.toWord = 0 := by decide
  have hrsv : Results.zero.rsv.toWord = 0 := by decide
  rcases exec_decodeAck_cases h with ⟨-, rfl⟩ | ⟨-, -, rfl⟩ | ⟨-, -, rfl⟩
  · exact ⟨rfl, hhdr, rfl, hrsv, rfl, fun _ => rfl⟩
  · exact ⟨rfl, hhdr, rfl, hrsv, rfl, fun hne => absurd rfl hne⟩
  · exact absurd rfl herr

/-- Settles O29: the first cell decides in both states alike, and the results come from the same six cells. -/
theorem decodeAckReadsSixBytes : Obligations.DecodeAckReadsSixBytes := by
  intro s buf' k hlong hk hcells
  have h0' : ({ s with buf := buf', rxlen := k } : State).memRead .buf 0 = s.memRead .buf 0 := hcells 0 (by decide)
  have hsame : ({ s with buf := buf', rxlen := k } : State).ackResults = s.ackResults :=
    State.ackResults_congr_cells hcells
  by_cases h0 : s.memRead .buf 0 = 0x02
  · refine ⟨_, execDecodeAck_ok hlong h0, ?_⟩
    rw [← hsame]
    exact execDecodeAck_ok hk (h0'.trans h0)
  · refine ⟨_, execDecodeAck_unexpected hlong h0, ?_⟩
    rw [← h0'] at h0 ⊢
    exact execDecodeAck_unexpected hk h0

/-- Settles O30: the ack of the source, and a frame of type 0x01 long enough or too short. -/
theorem decodeAckWorkedExamples : Obligations.DecodeAckWorkedExamples := by
  refine ⟨fun s hrxlen h0 h1 h2 h3 h4 h5 => ?_, fun s h0 => ?_⟩
  · have hlong : 6 ≤ s.rxlen.toNat := by rw [hrxlen]; decide
    have hclock : s.ackResults.clock = clockValue 0x00 0x10 0x00 0x03 := by
      simp only [State.ackResults, h2, h3, h4, h5]
    refine ⟨_, execDecodeAck_ok hlong h0, ?_, hclock.trans (by decide), rfl⟩
    rw [State.complete_results, State.ackResults_hdr h0, h1]
    decide
  · have hne : bufAt s 0 ≠ 0x02 := by rw [h0]; decide
    rcases Nat.lt_or_ge s.rxlen.toNat 6 with hshort | hlong
    · exact ⟨_, execDecodeAck_short hshort, fun hlong => absurd hlong (by omega), fun _ => ⟨rfl, rfl⟩⟩
    · refine ⟨_, execDecodeAck_unexpected hlong hne, fun _ => ⟨rfl, ?_⟩, fun hshort => absurd hshort (by omega)⟩
      rw [State.raise_results, show s.memRead .buf 0 = 0x01 from h0]

/-- Settles O31: a decoder only completes. -/
theorem decodersHaveNoSideEffects : Obligations.DecodersHaveNoSideEffects := by
  intro i s u hi h
  obtain ⟨e, r, rfl⟩ := exec_decoder_eq_complete hi h
  have hkept : Kept s (s.complete e r) := (completed_complete s e r).kept
  exact ⟨hkept, hkept.rxlen, bufAt_complete s e r, hkept.pay⟩

end Sys2Proof
end

section
/-! PROOFS. The operation lifecycle (60_exceptions.md R160 to R168): the ways an operation can end, said once for all
four, and from them the obligations of errors and completion. -/

namespace Sys2Proof.Machine

open Sys2Proof.Claims

/-! ### Completion -/

section Completion

variable {s u : State} {i : Instr}

/-- R165: what a completion writes and what it leaves, for every operation. -/
theorem exec_completed (h : exec i s = .next u) : ∃ (e : ErrCode) (r : Results), Completed s u e.code r := by
  obtain ⟨m, e, r, rfl⟩ := exec_eq_complete h
  exact ⟨e, r, rfl, rfl, rfl, rfl, rfl, rfl, rfl, rfl, fun _ => rfl, rfl, rfl, rfl, rfl⟩

/-- R165: an operation commutes with overwriting the result registers and STATUS, but for OVR, which stands. -/
theorem exec_with_results_status (h : exec i s = .next u) (r : Results) (st : Status) :
    exec i { s with results := r, status := st } =
      .next { u with status := { u.status with ovr := st.ovr } } := by
  obtain ⟨m, e, r', hx⟩ := exec_determined i s
  cases (hx s rfl rfl rfl rfl rfl).symm.trans h
  exact hx _ rfl rfl rfl rfl rfl

/-- R161: the block produces no code above 5. -/
theorem ErrCode.code_toNat_le (e : ErrCode) : e.code.toNat ≤ 5 := by
  cases e <;> decide

end Completion

/-! ### The ways an operation ends -/

section Endings

variable {s u : State} {p : BitVec 3} {snd t q : Byte} {i : Instr}

/-- 41_frame_encoder.md R105: when no payload fits, the scan finds no terminator within the limit. -/
theorem exec_encode_of_none_fits (hc : Codes p t q) (h : ∀ n, PayloadIs s n → ¬ Fits s n) :
    exec (.encode p snd) s = .next (s.raise .frameTooLarge 0) := by
  have hnone : s.payloadLength = none := Option.eq_none_iff_forall_ne_some.mpr fun n hsome => by
    obtain ⟨hfits, hpayload⟩ := (s.payloadLength_eq_some n).mp hsome
    exact h n hpayload hfits
  exact exec_encode_tooLarge hc (s.payloadLength_eq_none.mp hnone)

/-- 41_frame_encoder.md R100, R166: the errors of ENCODE in their order, and the frame it sends otherwise. -/
theorem exec_encode_cases (h : exec (.encode p snd) s = .next u) :
    (NoFrame p ∧ u = s.raise .invalidPacketType 0) ∨
    ((∃ t q, Codes p t q) ∧ (∀ n, PayloadIs s n → ¬ Fits s n) ∧ u = s.raise .frameTooLarge 0) ∨
    (∃ t q n, Codes p t q ∧ PayloadIs s n ∧ Fits s n ∧ u = s.encoded t snd q n) := by
  rcases noFrame_or_codes p with hp | ⟨t, q, hc⟩
  · cases (exec_encode_noFrame hp snd s).symm.trans h
    exact .inl ⟨hp, rfl⟩
  · by_cases hfit : ∃ n, PayloadIs s n ∧ Fits s n
    · obtain ⟨n, hn, hf⟩ := hfit
      cases (exec_encode_eq_encoded hc hn hf).symm.trans h
      exact .inr (.inr ⟨t, q, n, hc, hn, hf, rfl⟩)
    · have hnone (n : Nat) (hn : PayloadIs s n) : ¬ Fits s n := fun hf => hfit ⟨n, hn, hf⟩
      cases (exec_encode_of_none_fits hc hnone).symm.trans h
      exact .inr (.inl ⟨⟨t, q, hc⟩, hnone, rfl⟩)

/-- R165, R168: an operation raises an error from the block as it stands (ERRINFO is 0 but for UnexpectedFrameType),
or completes it as it stands, or is an ENCODE that sends a frame. -/
theorem exec_cases (h : exec i s = .next u) :
    (∃ e info, e ≠ .ok ∧ (e ≠ .unexpectedFrameType → info = 0) ∧ u = s.raise e info) ∨
    (∃ r, u = s.complete .ok r) ∨
    (∃ p snd t q n, i = .encode p snd ∧ Fits s n ∧ u = s.encoded t snd q n) := by
  cases i with
  | encode p snd =>
    rcases exec_encode_cases h with ⟨-, hu⟩ | ⟨-, -, hu⟩ | ⟨t, q, n, -, -, hf, hu⟩
    · exact .inl ⟨.invalidPacketType, 0, nofun, fun _ => rfl, hu⟩
    · exact .inl ⟨.frameTooLarge, 0, nofun, fun _ => rfl, hu⟩
    · exact .inr (.inr ⟨p, snd, t, q, n, rfl, hf, hu⟩)
  | decodeHeader =>
    rcases exec_decodeHeader_cases h with ⟨-, hu⟩ | ⟨-, hu⟩
    · exact .inl ⟨.incompleteFrame, 0, nofun, fun _ => rfl, hu⟩
    · exact .inr (.inl ⟨_, hu⟩)
  | decodeAck =>
    rcases exec_decodeAck_cases h with ⟨-, hu⟩ | ⟨-, -, hu⟩ | ⟨-, -, hu⟩
    · exact .inl ⟨.incompleteFrame, 0, nofun, fun _ => rfl, hu⟩
    · exact .inl ⟨.unexpectedFrameType, bufAt s 0, nofun, fun hne => absurd rfl hne, hu⟩
    · exact .inr (.inl ⟨_, hu⟩)
  | reservedOp3 =>
    cases h
    exact .inl ⟨.illegalCommand, 0, nofun, fun _ => rfl, rfl⟩

/-- R168: an operation that ends with an error raised it from the block as it stood. -/
theorem exec_failed (h : exec i s = .next u) (herr : u.status.err ≠ 0) :
    ∃ e info, (e ≠ .unexpectedFrameType → info = 0) ∧ u = s.raise e info := by
  rcases exec_cases h with ⟨e, info, -, hinfo, hu⟩ | ⟨r, rfl⟩ | ⟨p, snd, t, q, n, -, -, rfl⟩
  · exact ⟨e, info, hinfo, hu⟩
  · exact absurd rfl herr
  · exact absurd rfl herr

/-- R163: the meaning of the reserved operation. -/
theorem exec_reservedOp3 (s : State) : exec .reservedOp3 s = .next (s.raise .illegalCommand 0) := rfl

end Endings

end Sys2Proof.Machine

/-! ### The obligations -/

namespace Sys2Proof

open Sys2Proof.Machine Sys2Proof.Claims

/-- Settles O32: the error is raised from the block as it stands, whatever its memories hold. -/
theorem reservedOperationIsIllegalCommand : Obligations.ReservedOperationIsIllegalCommand := by
  refine ⟨fun s => ?_, fun s hidle hovr => ?_⟩
  · exact ⟨_, exec_reservedOp3 s, completed_raise s .illegalCommand, fun a => s.memRead_raise .buf a _ _,
      fun buf' pay' => exec_reservedOp3 { s with buf := buf', pay := pay' }⟩
  · have hword : decodeWord 0x00000003#32 = .reservedOp3 := by decide
    have hstatus : s.status.accepted.completed .illegalCommand =
        { busy := false, done := true, ovr := s.status.ovr, err := 5 } := rfl
    rw [hovr] at hstatus
    obtain ⟨haccept, hengine⟩ := hostAccess_write_cmd_idle hidle 0x00000003#32
    rw [hword, exec_reservedOp3] at hengine
    refine ⟨_, _, haccept, rfl, hengine, ?_, rfl, fun a => by simp [bufAt], fun a => by simp [payAt]⟩
    exact (congrArg Status.toWord hstatus).trans (by decide)

/-- Settles O33: the completion of every operation; a failure is an error raised, and its results are ERRINFO alone. -/
theorem everyOperationCompletes : Obligations.EveryOperationCompletes := by
  intro i s
  obtain ⟨m, e, r, hx⟩ := exec_shape i s
  obtain ⟨_, _, hdone⟩ := exec_completed hx
  refine ⟨_, hx, hdone.busy, hdone.done, hdone.kept, fun herr => ?_, exec_with_results_status hx⟩
  obtain ⟨e', info, hinfo, hu⟩ := exec_failed hx herr
  rw [hu]
  exact ⟨rfl, fun hne => hinfo fun he => hne (congrArg ErrCode.code he)⟩

/-- Settles O34, operation by operation. -/
theorem errorCodeOfEachOperation : Obligations.ErrorCodeOfEachOperation := by
  refine ⟨fun s u p snd h => ⟨?_, fun hp => ?_, fun hp hnone => ?_, fun n hp hn hf => ?_⟩,
    fun s u h => ?_, fun s u h => ?_, fun s u h => ?_, fun i s u h => ?_⟩
  · rcases exec_encode_cases h with ⟨-, rfl⟩ | ⟨-, -, rfl⟩ | ⟨t, q, n, -, -, -, rfl⟩
    · rfl
    · rfl
    · rfl
  · exact (exec_encode_err_eq_four_iff h).mpr hp
  · obtain ⟨t, q, hc⟩ := (noFrame_or_codes p).resolve_left hp
    cases (exec_encode_of_none_fits hc hnone).symm.trans h
    rfl
  · obtain ⟨t, q, hc⟩ := (noFrame_or_codes p).resolve_left hp
    cases (exec_encode_eq_encoded hc hn hf).symm.trans h
    rfl
  · rcases exec_decodeHeader_cases h with ⟨hshort, rfl⟩ | ⟨hlong, rfl⟩
    · rw [if_pos hshort]
      exact ⟨rfl, rfl⟩
    · rw [if_neg (Nat.not_lt.mpr hlong)]
      exact ⟨rfl, rfl⟩
  · rcases exec_decodeAck_cases h with ⟨hshort, rfl⟩ | ⟨hlong, h0, rfl⟩ | ⟨hlong, h0, rfl⟩
    · rw [if_pos hshort]
      exact ⟨rfl, rfl⟩
    · rw [if_neg (Nat.not_lt.mpr hlong), if_pos h0]
      exact ⟨rfl, rfl⟩
    · rw [if_neg (Nat.not_lt.mpr hlong), if_neg (not_not_intro h0)]
      exact ⟨rfl, rfl⟩
  · cases (exec_reservedOp3 s).symm.trans h
    exact ⟨rfl, rfl⟩
  · obtain ⟨e, r, hdone⟩ := exec_completed h
    exact ⟨hdone.err ▸ e.code_toNat_le, congrArg Cmd.toWord hdone.kept.cmd⟩

/-- Settles O35: an error is raised from the block as it stood; only the frame of an ENCODE changes cells of BUF. -/
theorem failingOperationWritesNoMemory : Obligations.FailingOperationWritesNoMemory := by
  refine ⟨fun i s u h herr => ?_, fun i s u a h hchanged => ?_⟩
  · obtain ⟨e, info, -, rfl⟩ := exec_failed h herr
    rfl
  · rcases exec_cases h with ⟨e, info, -, -, rfl⟩ | ⟨r, rfl⟩ | ⟨p, snd, t, q, n, rfl, hf, rfl⟩
    · exact absurd (s.memRead_raise .buf a e info) hchanged
    · exact absurd (bufAt_complete s .ok r a) hchanged
    · have hlt : a < 10 + n := Nat.lt_of_not_le fun ha => hchanged (bufAt_encoded_beyond ha)
      have htxlen : (s.encoded t snd q n).results.txlen.toNat = 10 + n := Nat.mod_eq_of_lt (frame_lt_of_fits hf)
      exact ⟨⟨p, snd, rfl⟩, rfl, htxlen.symm ▸ hlt, hlt.trans_le hf⟩

end Sys2Proof
end

section
/-! PROOFS. Reset and the hazards (70_reset_and_hazards.md R190, R195, R196): the registers after reset, the operand
writes and the BUF reads while BUSY = 1, and from them the obligations of the family. -/

namespace Sys2Proof.Machine

/-! ### Reset -/

section Reset

/-- 10_state.md R21: every register but CAP is 0 after reset. -/
theorem State.reset_regValue {r : Reg} (h : r ≠ .cap) : State.reset.regValue r = 0 := by
  cases r with
  | cap => exact absurd rfl h
  | cmd | status | rxlen | txlen | hdr | plen | rsv | clock | errinfo => rfl

/-- R190: a reset turn gives every register but CAP, whose value is a parameter, the value of the reset state. -/
theorem State.resetBlock_regValue (s : State) {r : Reg} (h : r ≠ .cap) :
    s.resetBlock.regValue r = State.reset.regValue r := by
  cases r with
  | cap => exact absurd rfl h
  | cmd | status | rxlen | txlen | hdr | plen | rsv | clock | errinfo => rfl

/-- R190: a reset turn is taken whatever is in flight. -/
theorem step_reset {s : State} {rest : List Turn} (h : s.turns = .reset :: rest) :
    step s = .next ({ s with turns := rest } : State).resetBlock :=
  step_cons h

end Reset

/-! ### The hazards -/

section Hazards

variable (s : State) {i : Nat} (v : Byte)

/-- R195 for BUF. -/
theorem hostAccess_bufWrite_busy (hi : i < s.cfg.packetMax.toNat) (h : s.status.busy = true) :
    hostAccess (.bufWrite i v) s = .fault (.hostHazard .buf) := by
  simp [hostAccess, hostBufWrite, hi, h]

/-- R195 for PAY. -/
theorem hostAccess_payWrite_busy (hi : i < s.cfg.payBytes) (h : s.status.busy = true) :
    hostAccess (.payWrite i v) s = .fault (.hostHazard .pay) := by
  simp [hostAccess, hostPayWrite, hi, h]

/-- R196: while BUSY = 1, CMD.OP alone says whether an ENCODE is in flight. -/
theorem State.encodeInFlight_busy (h : s.status.busy = true) : s.encodeInFlight = decide (s.cmd.op = 0b00#2) := by
  rw [State.encodeInFlight, h, Bool.true_and]

/-- R196: while an ENCODE is in flight a BUF read is a draw. -/
theorem hostAccess_bufRead_draw (hi : i < s.cfg.packetMax.toNat) (h : s.encodeInFlight = true) :
    hostAccess (.bufRead i) s = .next (s.drew.answered (.byte (Config.busyByte s.draws))) := by
  simp [hostAccess, hostBufRead, hi, h]

end Hazards

end Sys2Proof.Machine

/-! ### The obligations -/

namespace Sys2Proof

open Sys2Proof.Machine Sys2Proof.Claims

/-- Settles O48: `readWord` is the draw on the fields of a result register and on ERR; a BUF read depends on whether
the operation in flight is an ENCODE. -/
theorem readsWhileBusy : Obligations.ReadsWhileBusy := by
  refine ⟨fun s r hbusy hr hc => ?_, fun s hbusy => ?_, fun s i hbusy hi => ⟨fun hop => ?_, fun hop => ?_⟩,
    fun s i hi => hostAccess_payRead s hi⟩
  · have hword : s.readWord r = Config.busyWord s.draws &&& fieldMask r := by
      rw [s.readWord_busy r hbusy, s.busyValue_readOnly hr hc]
    exact hword ▸ readAnswers_readWord s r
  · obtain ⟨t, ht, hsame, hv⟩ := readAnswers_readWord s .status
    exact ⟨t, _, ht, hsame, hv, State.readWord_status_err_busy hbusy⟩
  · have hencode : s.encodeInFlight = true := (s.encodeInFlight_busy hbusy).trans (decide_eq_true hop)
    exact ⟨_, hostAccess_bufRead_draw s hi hencode, rfl, rfl⟩
  · have hother : s.encodeInFlight = false := (s.encodeInFlight_busy hbusy).trans (decide_eq_false hop)
    exact hostAccess_bufRead_exact s hi hother

/-- Settles O47, by the rule of each operand's write while BUSY = 1. -/
theorem operandWriteWhileBusyIsAHazard : Obligations.OperandWriteWhileBusyIsAHazard :=
  fun s hbusy => ⟨fun _ v hi => hostAccess_bufWrite_busy s v hi hbusy,
    fun _ v hi => hostAccess_payWrite_busy s v hi hbusy, fun w => hostAccess_write_rxlen_busy s w hbusy⟩

/-- Settles O53: the state a reset turn leaves is idle, so that the engine has no step. -/
theorem resetClearsEveryRegister : Obligations.ResetClearsEveryRegister := by
  intro s rest hturns
  refine ⟨_, step_reset hturns, fun r hr => ?_, rfl, rfl, rfl, rfl, rfl, engineStep_idle rfl⟩
  exact (State.resetBlock_regValue _ hr).trans (State.reset_regValue hr)

end Sys2Proof
end

section
/-! PROOFS. The invariant (10_state.md sections 4 to 6, 60_exceptions.md section 3): each named operation of the state
keeps it, hence every host access, every operation and every step; and it holds after reset. -/

namespace Sys2Proof.Machine

open Sys2Proof.Claims

/-! ### What each update of the state keeps -/

section Updates

variable {s : State}

/-- `s` with other values of OVR, `draws`, `turns` and `answer`: all that a host access can change while BUSY = 1
(10_state.md R33, R34, 70_reset_and_hazards.md R195). -/
def State.withHostFields (s : State) (b : Bool) (d : Nat) (l : List Turn) (a : Answer) : State :=
  { s with status := { s.status with ovr := b }, draws := d, turns := l, answer := a }

/-- The invariant says nothing of them. -/
theorem Inv.withHostFields (h : Inv s) (b : Bool) (d : Nat) (l : List Turn) (a : Answer) :
    Inv (s.withHostFields b d l a) :=
  { h with }

theorem Inv.with_turns (h : Inv s) (l : List Turn) : Inv { s with turns := l } :=
  h.withHostFields s.status.ovr s.draws l s.answer

theorem Inv.answered (h : Inv s) (a : Answer) : Inv (s.answered a) :=
  h.withHostFields s.status.ovr s.draws s.turns a

theorem Inv.drew (h : Inv s) : Inv s.drew :=
  h.withHostFields s.status.ovr (s.draws + 1) s.turns s.answer

/-- 10_state.md R34: a STATUS write reaches OVR only. -/
theorem Inv.hostWritten (h : Inv s) (w : Word) : Inv { s with status := s.status.hostWritten w } := by
  rw [Status.hostWritten_eq]
  exact h.withHostFields _ s.draws s.turns s.answer

/-- R33: an accepted command clears DONE, and the block is idle no more; the old results stand. -/
theorem Inv.accept (h : Inv s) (w : Word) : Inv (s.accept w) :=
  { h with not_both := fun _ => rfl, fresh := nofun }

theorem Inv.writeCmd (h : Inv s) (w : Word) : Inv (s.writeCmd w) := by
  cases hb : s.status.busy with
  | false => exact s.writeCmd_idle w hb ▸ h.accept w
  | true => exact s.writeCmd_busy w hb ▸ h.withHostFields true s.draws s.turns s.answer

/-- R35. -/
theorem Inv.with_clampRxlen (h : Inv s) (w : Word) : Inv { s with rxlen := s.clampRxlen w } :=
  { h with rxlen_le := s.clampRxlen_toNat w ▸ Nat.min_le_right _ _ }

/-- R27: BUF may become any memory in the canonical form that lists existing cells only. -/
theorem Inv.with_buf (h : Inv s) {m : Memory} (hwf : m.wf) (hin : ∀ c ∈ m, c.1 < s.cfg.packetMax.toNat) :
    Inv { s with buf := m } :=
  { h with buf_wf := hwf, buf_in := hin }

/-- R28: so may PAY. -/
theorem Inv.with_pay (h : Inv s) {m : Memory} (hwf : m.wf) (hin : ∀ c ∈ m, c.1 < s.cfg.payBytes) :
    Inv { s with pay := m } :=
  { h with pay_wf := hwf, pay_in := hin }

/-- A write inside a memory's range lists no cell outside it. -/
theorem Memory.set_in {m : Memory} {size i : Nat} (hin : ∀ c ∈ m, c.1 < size) (hi : i < size) (v : Byte) :
    ∀ c ∈ m.set i v, c.1 < size := by
  intro c hc
  rcases Memory.mem_set hc with rfl | hc
  · exact hi
  · exact hin c hc

theorem Inv.memWrite_buf (h : Inv s) {i : Nat} (hi : i < s.cfg.packetMax.toNat) (v : Byte) :
    Inv (s.memWrite .buf i v) :=
  h.with_buf (Memory.set_wf h.buf_wf i v) (Memory.set_in h.buf_in hi v)

theorem Inv.memWrite_pay (h : Inv s) {i : Nat} (hi : i < s.cfg.payBytes) (v : Byte) : Inv (s.memWrite .pay i v) :=
  h.with_pay (Memory.set_wf h.pay_wf i v) (Memory.set_in h.pay_in hi v)

/-- 41_frame_encoder.md R103: a frame that fits lists no cell outside BUF. -/
theorem Inv.writeFrame (h : Inv s) {bs : List Byte} (hlen : bs.length ≤ s.cfg.packetMax.toNat) :
    Inv (s.writeFrame bs) := by
  refine h.with_buf (Memory.setList_wf h.buf_wf 0 bs) fun c hc => ?_
  rcases Memory.mem_setList hc with hc | ⟨-, hc⟩
  · exact h.buf_in c hc
  · omega

end Updates

/-! ### Completion -/

section Completions

variable {s u : State}

/-- The results that may stand beside an error code (10_state.md R36, R41, 60_exceptions.md R165): what the invariant
asks of a completion. -/
structure ResultsFit (c : Params) (err : BitVec 4) (r : Results) : Prop where
  failed : err ≠ 0 → r = { Results.zero with errinfo := r.errinfo }
  sized : r.txlen ≠ 0 →
    err = 0 ∧ r.txlen.toNat = 10 + r.plen.toNat ∧ r.txlen.toNat ≤ c.packetMax.toNat ∧
      r.rsv = Results.zero.rsv ∧ r.clock = 0
  info : err ≠ 3 → r.errinfo = 0

/-- R165: a completion leaves DONE = 1, so that nothing is asked of CMD. -/
theorem Inv.complete (h : Inv s) {e : ErrCode} {r : Results} (hr : ResultsFit s.cfg e.code r) :
    Inv (s.complete e r) :=
  { h with
    err_le := e.code_toNat_le
    not_both := nofun
    fresh := fun _ => nofun
    failed := hr.failed
    sized := hr.sized
    info := hr.info }

theorem Inv.raise (h : Inv s) {e : ErrCode} {info : Byte} (hinfo : e.code ≠ 3 → info = 0) : Inv (s.raise e info) :=
  h.complete ⟨fun _ => rfl, fun hne => absurd rfl hne, hinfo⟩

/-- 42_frame_decoder.md R131, R142: a decoder that succeeds reports neither a frame size nor an ERRINFO. -/
theorem Inv.complete_decoded (h : Inv s) {r : Results} (htxlen : r.txlen = 0) (hinfo : r.errinfo = 0) :
    Inv (s.complete .ok r) :=
  h.complete ⟨fun hne => absurd rfl hne, fun hne => absurd htxlen hne, fun _ => hinfo⟩

/-- 41_frame_encoder.md R108: the sizes of a frame that fits stand in TXLEN and PLEN as they are. -/
theorem resultsFit_encodeResults {n : Nat} (hf : Fits s n) (t snd q : Byte) :
    ResultsFit s.cfg ErrCode.ok.code (encodeResults t snd q n) := by
  have htxlen : (encodeResults t snd q n).txlen.toNat = 10 + n := Nat.mod_eq_of_lt (frame_lt_of_fits hf)
  have hplen : (encodeResults t snd q n).plen.toNat = n := Nat.mod_eq_of_lt (payload_lt_of_fits hf)
  exact ⟨fun hne => absurd rfl hne, fun _ => ⟨rfl, by rw [htxlen, hplen], htxlen ▸ hf, rfl, rfl⟩, fun _ => rfl⟩

theorem Inv.encoded (h : Inv s) {n : Nat} (hf : Fits s n) (t snd q : Byte) : Inv (s.encoded t snd q n) := by
  have hlen : (frameBytes t snd q (s.payload n)).length ≤ s.cfg.packetMax.toNat := by
    rw [frameBytes_length, State.payload_length]
    exact hf
  exact (h.writeFrame hlen).complete (resultsFit_encodeResults hf t snd q)

/-- Every operation keeps the invariant, whichever way it ends. -/
theorem Inv.exec {i : Instr} (h : Inv s) (hx : exec i s = .next u) : Inv u := by
  cases i with
  | encode p snd =>
    rcases exec_encode_cases hx with ⟨-, rfl⟩ | ⟨-, -, rfl⟩ | ⟨t, q, n, -, -, hf, rfl⟩
    · exact h.raise fun _ => rfl
    · exact h.raise fun _ => rfl
    · exact h.encoded hf t snd q
  | decodeHeader =>
    rcases exec_decodeHeader_cases hx with ⟨-, rfl⟩ | ⟨-, rfl⟩
    · exact h.raise fun _ => rfl
    · exact h.complete_decoded rfl rfl
  | decodeAck =>
    rcases exec_decodeAck_cases hx with ⟨-, rfl⟩ | ⟨-, -, rfl⟩ | ⟨-, -, rfl⟩
    · exact h.raise fun _ => rfl
    · exact h.raise fun hne => absurd rfl hne
    · exact h.complete_decoded rfl rfl
  | reservedOp3 =>
    cases hx
    exact h.raise fun _ => rfl

end Completions

/-! ### Host accesses and reset -/

section Steps

variable {s t : State}

theorem Inv.hostAccess {a : Access} (h : Inv s) (ha : hostAccess a s = .next t) : Inv t := by
  rcases hostAccess_cases ha with ⟨_, rfl⟩ | ⟨_, -, rfl⟩ | ⟨w, -, rfl⟩ | ⟨w, -, rfl⟩ | ⟨w, -, -, rfl⟩ |
    ⟨i, v, -, hi, -, rfl⟩ | ⟨i, v, -, hi, -, rfl⟩
  · exact h.answered _
  · exact h.drew.answered _
  · exact (h.writeCmd w).answered _
  · exact (h.hostWritten w).answered _
  · exact (h.with_clampRxlen w).answered _
  · exact (h.memWrite_buf hi v).answered _
  · exact (h.memWrite_pay hi v).answered _

/-- 70_reset_and_hazards.md R190, R191: the reset values meet the invariant for every legal pair of parameters. -/
theorem inv_reset_with_cfg {c : Params} (hc : c.wellFormed = true) (epoch draws : Nat) (turns : List Turn) :
    Inv { State.reset with cfg := c, epoch := epoch, draws := draws, turns := turns } :=
  ⟨hc, List.Pairwise.nil, nofun, List.Pairwise.nil, nofun, Nat.zero_le _, Nat.zero_le _, nofun,
    fun _ _ => ⟨rfl, rfl, rfl⟩, fun _ => rfl, fun hne => absurd rfl hne, fun _ => rfl⟩

theorem Inv.resetBlock (h : Inv s) : Inv s.resetBlock :=
  inv_reset_with_cfg h.cfg_ok _ _ _

/-- 00_scope.md R8 holds of the parameters after reset, whatever the opaque constants are. -/
theorem config_params_wellFormed : Config.params.wellFormed = true :=
  decide_eq_true (Nat.le_add_right _ _)

end Steps

end Sys2Proof.Machine

/-! ### The obligations -/

namespace Sys2Proof

open Sys2Proof.Machine

/-- Settles O56: a step is a host access, a reset, an idle turn or the operation in flight, and each keeps the
invariant. -/
theorem stepKeepsTheInvariant : Obligations.StepKeepsTheInvariant := by
  intro s t h hstep
  obtain ⟨rest, u, rfl, ⟨a, -, ha⟩ | ⟨-, rfl⟩ | ⟨-, ⟨-, rfl⟩ | ⟨-, hx⟩⟩⟩ := step_cases hstep
  · exact (h.with_turns rest).hostAccess ha
  · exact (h.with_turns rest).resetBlock
  · exact h.with_turns rest
  · exact (h.with_turns rest).exec hx

/-- Settles O55: the reset state is the reset values with the opaque parameters. -/
theorem resetMeetsTheInvariant : Obligations.ResetMeetsTheInvariant :=
  inv_reset_with_cfg config_params_wellFormed 0 0 []

/-- Settles O54, register by register. -/
theorem resetStateRegisters : Obligations.ResetStateRegisters :=
  ⟨fun _ => State.reset_regValue, rfl, rfl⟩

end Sys2Proof
end

section
/-! PROOFS. Words and operations (30_encoding.md sections 1 and 2): the four cases of the decoder, the word and the row
of the operation a word selects, and the one step that runs it (60_exceptions.md R160). -/

namespace Sys2Proof

open Sys2Proof.Machine Sys2Proof.Claims

/-! ### The decoder against the encoder -/

section DecodeEncode

variable {w w' : Word}

/-- R81: OP selects one of the four operations. -/
theorem decodeWord_cases (w : Word) :
    (opField w = 0b00#2 ∧ decodeWord w = .encode (ptypeField w) (senderField w)) ∨
    (opField w = 0b01#2 ∧ decodeWord w = .decodeHeader) ∨
    (opField w = 0b10#2 ∧ decodeWord w = .decodeAck) ∨
    (opField w = 0b11#2 ∧ decodeWord w = .reservedOp3) := by
  have values : ∀ o : BitVec 2, o = 0b00#2 ∨ o = 0b01#2 ∨ o = 0b10#2 ∨ o = 0b11#2 := by decide
  rcases values (opField w) with h | h | h | h
  · exact .inl ⟨h, decodeWord_of_opField_encode h⟩
  · exact .inr (.inl ⟨h, by simp [decodeWord, h]⟩)
  · exact .inr (.inr (.inl ⟨h, by simp [decodeWord, h]⟩))
  · exact .inr (.inr (.inr ⟨h, decodeWord_of_opField_reserved h⟩))

/-- R83: the operation of an encoder's word is the encoded one, with its operands. -/
theorem decodeWord_encode (i : Instr) : decodeWord (encode i) = i := by
  cases i with
  | encode p snd => exact decodeWord_encode_encode p snd
  | decodeHeader | decodeAck | reservedOp3 => decide

/-- R85 (d): of an ENCODE word the reserved bits are lost. -/
theorem encode_decodeWord_of_encode (h : opField w = 0b00#2) : encode (decodeWord w) = w &&& cmdMask := by
  rw [decodeWord_of_opField_encode h, encode, ← cmdWord_fields w, h]

/-- R85 (c): of every other word OP alone is left. -/
theorem encode_decodeWord_of_not_encode (h : opField w ≠ 0b00#2) : encode (decodeWord w) = zext32 (opField w) := by
  rcases decodeWord_cases w with ⟨hop, -⟩ | ⟨hop, hw⟩ | ⟨hop, hw⟩ | ⟨hop, hw⟩
  · exact absurd hop h
  · rw [hw, hop]; decide
  · rw [hw, hop]; decide
  · rw [hw, hop]; decide

/-- R81: a word stands in the row of ENCODE exactly when its OP is 0b00. -/
theorem and_rowMask_eq_zero_iff : w &&& 0x00000003#32 = 0x00000000#32 ↔ opField w = 0b00#2 := by
  have hzero : ∀ o : BitVec 2, zext32 o = 0x00000000#32 ↔ o = 0b00#2 := by decide
  rw [and_rowMask, hzero]

/-- The word of the operation `w` selects stands in the same row of the opcode table as `w`. -/
theorem opField_encode_decodeWord (w : Word) : opField (encode (decodeWord w)) = opField w := by
  rcases decodeWord_cases w with ⟨hop, hw⟩ | ⟨hop, hw⟩ | ⟨hop, hw⟩ | ⟨hop, hw⟩
  all_goals rw [hw, encode, opField_cmdWord, hop]

/-- Which rows cover a word depends on its OP alone. -/
theorem opcodeTable_filter_congr (h : opField w = opField w') :
    opcodeTable.filter (fun r => r.covers w) = opcodeTable.filter (fun r => r.covers w') := by
  have hmask : ∀ r ∈ opcodeTable, r.mask = 0x00000003#32 := by decide
  refine List.filter_congr fun r hr => ?_
  rw [OpcodeRow.covers, OpcodeRow.covers, hmask r hr, and_rowMask, and_rowMask, h]

/-- Each operation's word is covered by its own row alone. -/
theorem encodedRow (i : Instr) : Laws.EncodedRow.Statement i := by
  cases i with
  | encode p snd => exact Laws.EncodedRow.encode p snd
  | decodeHeader => exact Laws.EncodedRow.decodeHeader
  | decodeAck => exact Laws.EncodedRow.decodeAck
  | reservedOp3 => exact Laws.EncodedRow.reservedOp3

/-- R86: a table word that is read at all is read as a command word. -/
theorem decodeTableWord_eq_some {nbits k : Nat} {i : Instr} (h : decodeTableWord nbits k = some i) :
    i = decodeWord (tableWord nbits k) := by
  unfold decodeTableWord decodeBits at h
  by_cases hn : nbits ≤ 32
  · simpa [hn] using h.symm
  · simp [hn] at h

end DecodeEncode

/-! ### The step that runs an operation -/

namespace Machine

section RunNext

variable {s : State}

theorem State.with_turns_self {l : List Turn} (h : s.turns = l) : ({ s with turns := l } : State) = s := by
  subst h
  rfl

/-- An engine turn at the head of the turns is taken off. -/
theorem step_engine {rest : List Turn} (h : s.turns = .engine :: rest) :
    step s = engineStep { s with turns := rest } :=
  step_cons h

/-- After `fetchCommand` the very next step is the command's operation, and the turns to come are those of before. -/
theorem step_fetchCommand (s : State) (w : Word) : step (s.fetchCommand w) = exec (decodeWord w) (s.accept w) := by
  have hcommand : (s.fetchCommand w).command = decodeWord w := s.command_accept w
  cases hs : s.turns with
  | nil =>
    have hturns : (s.fetchCommand w).turns = [] := by simp [State.fetchCommand, hs]
    have hsame : s.fetchCommand w = s.accept w := by
      rw [State.fetchCommand, hs]
      exact State.with_turns_self (s := s.accept w) hs
    rw [step_nil hturns, engineStep_busy rfl, hcommand, hsame]
  | cons t rest =>
    have hturns : (s.fetchCommand w).turns = .engine :: s.turns := by simp [State.fetchCommand, hs]
    rw [step_engine hturns, engineStep_busy rfl]
    exact congrArg (exec · (s.accept w)) hcommand

/-- 60_exceptions.md R168: an operation keeps a cell of BUF, or is an ENCODE whose frame covers it. -/
theorem bufAt_exec_cases {i : Instr} {u : State} (h : exec i s = .next u) (a : Nat) :
    bufAt u a = bufAt s a ∨
      ((∃ p snd, i = .encode p snd) ∧ u.status.err = 0 ∧ a < u.results.txlen.toNat) := by
  by_cases hsame : bufAt u a = bufAt s a
  · exact .inl hsame
  · obtain ⟨hencode, herr, hlt, -⟩ := failingOperationWritesNoMemory.2 i s u a h hsame
    exact .inr ⟨hencode, herr, hlt⟩

end RunNext

end Machine

/-! ### The obligations -/

/-- Settles O1: the encoder's words decode to their operation, and the word of a decoded operation keeps what selected
it. -/
theorem decodeOfEncodeIsIdentity : Obligations.DecodeOfEncodeIsIdentity := by
  refine ⟨decodeWord_encode, fun w => ?_⟩
  by_cases h : opField w = 0b00#2
  · rw [if_pos (and_rowMask_eq_zero_iff.mpr h)]
    exact encode_decodeWord_of_encode h
  · rw [if_neg (mt and_rowMask_eq_zero_iff.mp h), and_rowMask]
    exact encode_decodeWord_of_not_encode h

/-- Settles O3: a word is covered by the rows that cover the encoder's word of its operation. -/
theorem opcodeRowsPartitionTheWords : Obligations.OpcodeRowsPartitionTheWords := by
  intro w
  rw [← opcodeTable_filter_congr (opField_encode_decodeWord w)]
  exact (encodedRow (decodeWord w)).1

/-- Settles O4, by decoding the six words. -/
theorem writtenOutWordsDecode : Obligations.WrittenOutWordsDecode := by
  unfold Obligations.WrittenOutWordsDecode
  decide

/-- Settles O6: CMD keeps the fields of the table word. -/
theorem fetchWordIsRunNext : Obligations.FetchWordIsRunNext := by
  intro s nbits w i h
  rw [decodeTableWord_eq_some h]
  exact ⟨Cmd.ofWord (tableWord nbits w), Cmd.toWord_ofWord _, step_fetchCommand s _⟩

/-- Settles O5: the engine's turn, with or without a turn list, is the command's operation, which completes. -/
theorem stepRunsTheCommandInFlight : Obligations.StepRunsTheCommandInFlight := by
  refine ⟨fun s hbusy hturns => (step_nil hturns).trans (engineStep_busy hbusy),
    fun s rest hbusy hturns => (step_engine hturns).trans (engineStep_busy hbusy),
    fun s => decodeWord_toWord s.cmd, fun s hbusy => ?_,
    fun s hidle hturns => (step_nil hturns).trans (engineStep_idle hidle),
    fun s rest hidle hturns => (step_engine hturns).trans (engineStep_idle hidle)⟩
  obtain ⟨m, e, r, hx⟩ := exec_shape s.command s
  obtain ⟨_, _, hdone⟩ := exec_completed hx
  refine ⟨_, hx, hdone.busy, hdone.done, fun a => (bufAt_exec_cases hx a).imp_right fun hframe => ?_⟩
  exact s.command_encode_iff.mp hframe.1

/-- Settles O7: the step takes the first turn. -/
theorem stepTakesTheNextTurn : Obligations.StepTakesTheNextTurn :=
  fun _ _ => ⟨fun _ hturns => step_cons hturns, step_reset⟩

end Sys2Proof
end

section
/-! PROOFS. How ENCODE ends and what it leaves (41_frame_encoder.md R100 to R108), read off its three endings. -/

namespace Sys2Proof

open Sys2Proof.Machine Sys2Proof.Claims

/-- 30_encoding.md R82: a PTYPE with codes has a frame. -/
theorem Machine.not_noFrame_of_codes {p : BitVec 3} {t q : Byte} (hc : Codes p t q) : ¬ NoFrame p := by
  rw [← selectCodes_eq_none_iff, selectCodes_of_codes hc]
  exact nofun

/-- Settles O15: each of the three endings of ENCODE has its own condition and its own code. -/
theorem encodeSucceedsExactlyWhenTheFrameFits : Obligations.EncodeSucceedsExactlyWhenTheFrameFits := by
  intro s u p snd h
  rcases exec_encode_cases h with ⟨hp, rfl⟩ | ⟨⟨t, q, hc⟩, hnone, rfl⟩ | ⟨t, q, n, hc, hn, hf, rfl⟩
  · exact ⟨iff_of_false nofun fun hfits => hfits.1 hp, iff_of_true rfl hp, iff_of_false nofun fun hlong => hlong.1 hp⟩
  · have hp : ¬ NoFrame p := not_noFrame_of_codes hc
    have hlong : ¬ ∃ n, PayloadIs s n ∧ Fits s n := fun ⟨n, hn, hf⟩ => hnone n hn hf
    exact ⟨iff_of_false nofun fun hfits => hlong hfits.2, iff_of_false nofun hp, iff_of_true rfl ⟨hp, hlong⟩⟩
  · have hp : ¬ NoFrame p := not_noFrame_of_codes hc
    have hfits : ∃ n, PayloadIs s n ∧ Fits s n := ⟨n, hn, hf⟩
    exact ⟨iff_of_true rfl ⟨hp, hfits⟩, iff_of_false nofun hp, iff_of_false nofun fun hlong => hlong.2 hfits⟩

/-- Settles O16: an error leaves BUF as it is, and a frame that is sent is as long as the payload ENCODE finds. -/
theorem encodeChangesOnlyItsFrame : Obligations.EncodeChangesOnlyItsFrame := by
  intro s u p snd h
  obtain ⟨_, _, hdone⟩ := exec_completed h
  refine ⟨hdone.kept, hdone.busy, hdone.done, ?_⟩
  rcases exec_encode_cases h with ⟨-, rfl⟩ | ⟨-, -, rfl⟩ | ⟨t, q, n, hc, hn, hf, rfl⟩
  · exact ⟨fun _ _ _ _ a _ => bufAt_complete s _ _ a, fun _ => bufAt_complete s _ _⟩
  · exact ⟨fun _ _ _ _ a _ => bufAt_complete s _ _ a, fun _ => bufAt_complete s _ _⟩
  · have hlength : s.payloadLength = some n := payloadLength_of_fits hn hf
    refine ⟨fun _ k _ hk a ha => bufAt_encoded_beyond ?_, fun hmissing => ?_⟩
    · rwa [Option.some.inj (hlength.symm.trans hk)]
    · rw [selectCodes_of_codes hc, hlength] at hmissing
      exact absurd hmissing (by simp)

end Sys2Proof
end

section
/-! PROOFS. Events of a host access (20_memory.md R50 to R57, 70_reset_and_hazards.md R195): when it gets through, which
cell it writes and which flag it moves, and from them the events of a whole step. -/

namespace Sys2Proof.Machine

open Sys2Proof.Claims

/-! ### When an access gets through -/

section Safe

variable {s : State} {a : Access}

theorem Access.safe_eq_true_iff {c : Params} {busy : Bool} :
    Access.safe c busy a = true ↔ a.wellFormed c = true ∧ (busy = true → Access.writesOperand a = false) := by
  cases busy <;> simp [Access.safe]

theorem Access.safe_eq_false_iff {c : Params} {busy : Bool} :
    Access.safe c busy a = false ↔
      a.wellFormed c = false ∨ (busy = true ∧ Access.writesOperand a = true) := by
  cases busy <;> cases h : a.wellFormed c <;> simp [Access.safe, h]

/-- 20_memory.md R56: an access outside its space is a BusError. -/
theorem hostAccess_of_not_wellFormed (h : a.wellFormed s.cfg = false) : ∃ f, hostAccess a s = .fault f := by
  cases a with
  | regRead off => exact ⟨_, hostAccess_regRead_busError s (by simpa [Access.wellFormed] using h)⟩
  | regWrite off w => exact ⟨_, hostAccess_regWrite_busError s w (by simpa [Access.wellFormed] using h)⟩
  | bufRead i => exact ⟨_, hostAccess_bufRead_busError s (Nat.le_of_not_lt (of_decide_eq_false h))⟩
  | bufWrite i v => exact ⟨_, hostAccess_bufWrite_busError s v (Nat.le_of_not_lt (of_decide_eq_false h))⟩
  | payRead i => exact ⟨_, hostAccess_payRead_busError s (Nat.le_of_not_lt (of_decide_eq_false h))⟩
  | payWrite i v => exact ⟨_, hostAccess_payWrite_busError s v (Nat.le_of_not_lt (of_decide_eq_false h))⟩

/-- 70_reset_and_hazards.md R195: an operand write in its space while BUSY = 1 is a HostHazard. -/
theorem hostAccess_of_hazard (h : a.wellFormed s.cfg = true) (hbusy : s.status.busy = true)
    (hop : Access.writesOperand a = true) : ∃ f, hostAccess a s = .fault f := by
  cases a with
  | regRead off | bufRead i | payRead i => cases hop
  | regWrite off w =>
    cases beq_iff_eq.mp hop
    exact ⟨_, hostAccess_write_rxlen_busy s w hbusy⟩
  | bufWrite i v => exact ⟨_, hostAccess_bufWrite_busy s v (of_decide_eq_true h) hbusy⟩
  | payWrite i v => exact ⟨_, hostAccess_payWrite_busy s v (of_decide_eq_true h) hbusy⟩

/-- Every other access gets through. -/
theorem hostAccess_of_safe (h : Access.safe s.cfg s.status.busy a = true) : ∃ t, hostAccess a s = .next t := by
  obtain ⟨hwf, hop⟩ := Access.safe_eq_true_iff.mp h
  have idle (hw : Access.writesOperand a = true) : s.status.busy = false :=
    Bool.eq_false_iff.mpr fun hbusy => absurd (hw.symm.trans (hop hbusy)) nofun
  cases a with
  | regRead off =>
    obtain ⟨r, rfl⟩ := exists_offset_of_mem_offsets (by simpa [Access.wellFormed] using hwf)
    obtain ⟨t, ht, -⟩ := readAnswers_readWord s r
    exact ⟨t, ht⟩
  | regWrite off w =>
    obtain ⟨r, rfl⟩ := exists_offset_of_mem_offsets (by simpa [Access.wellFormed] using hwf)
    cases r with
    | rxlen => exact ⟨_, hostAccess_write_rxlen_idle s w (idle rfl)⟩
    | cmd | status | txlen | hdr | plen | rsv | clock | errinfo | cap => exact ⟨_, rfl⟩
  | bufRead i =>
    cases he : s.encodeInFlight with
    | false => exact ⟨_, hostAccess_bufRead_exact s (of_decide_eq_true hwf) he⟩
    | true => exact ⟨_, hostAccess_bufRead_draw s (of_decide_eq_true hwf) he⟩
  | bufWrite i v => exact ⟨_, hostAccess_bufWrite_idle s v (of_decide_eq_true hwf) (idle rfl)⟩
  | payRead i => exact ⟨_, hostAccess_payRead s (of_decide_eq_true hwf)⟩
  | payWrite i v => exact ⟨_, hostAccess_payWrite_idle s v (of_decide_eq_true hwf) (idle rfl)⟩

end Safe

/-! ### The cells an access writes -/

section Cells

variable {s t : State} {a : Access} {sp : MemSpace}

/-- The write access of a byte memory. -/
def writeAccess : MemSpace → Nat → Byte → Access
  | .buf => .bufWrite
  | .pay => .payWrite

/-- A read of a memory sees the memory and the draws of its reset, nothing else. -/
theorem State.memRead_congr (hb : t.buf = s.buf) (hp : t.pay = s.pay) (he : t.epoch = s.epoch) (x : Nat) :
    t.memRead sp x = s.memRead sp x := by
  cases sp with
  | buf => exact State.memRead_buf_congr hb he x
  | pay => exact State.memRead_pay_congr hp he x

/-- A write of one cell leaves the cell `x` alone, or it is the write of the byte now in it. -/
theorem State.memRead_memWrite_cases (s : State) (sp sp' : MemSpace) (i x : Nat) (v : Byte) :
    (s.memWrite sp i v).memRead sp' x = s.memRead sp' x ∨
      writeAccess sp i v = writeAccess sp' x ((s.memWrite sp i v).memRead sp' x) := by
  rw [State.memRead_memWrite]
  split
  · next h =>
    obtain ⟨rfl, rfl⟩ := h
    exact .inr rfl
  · exact .inl rfl

/-- 20_memory.md R53, R54: an access changes a cell only by an idle write of that cell. -/
theorem hostAccess_memRead_cases (h : hostAccess a s = .next t) (x : Nat) :
    t.memRead sp x = s.memRead sp x ∨ (a = writeAccess sp x (t.memRead sp x) ∧ s.status.busy = false) := by
  rcases hostAccess_cases h with ⟨_, rfl⟩ | ⟨_, -, rfl⟩ | ⟨w, -, rfl⟩ | ⟨w, -, rfl⟩ | ⟨w, -, -, rfl⟩ |
    ⟨i, v, rfl, -, hidle, rfl⟩ | ⟨i, v, rfl, -, hidle, rfl⟩
  case inr.inr.inl =>
    refine .inl ?_
    rw [State.writeCmd]
    split <;> exact State.memRead_congr rfl rfl rfl x
  case inr.inr.inr.inr.inr.inl =>
    rw [State.memRead_answered]
    exact (s.memRead_memWrite_cases .buf sp i x v).imp_right fun hw => ⟨hw, hidle⟩
  case inr.inr.inr.inr.inr.inr =>
    rw [State.memRead_answered]
    exact (s.memRead_memWrite_cases .pay sp i x v).imp_right fun hw => ⟨hw, hidle⟩
  all_goals exact .inl (State.memRead_congr rfl rfl rfl x)

end Cells

/-! ### The flags a step moves -/

section Flags

variable {s t : State}

/-- 10_state.md R33: of all accesses only an accepted command moves BUSY or DONE. -/
theorem hostAccess_flag_cases {a : Access} (h : hostAccess a s = .next t) :
    (t.status.busy = s.status.busy ∧ t.status.done = s.status.done) ∨
    (∃ w, a = .regWrite 0x00 w ∧ s.status.busy = false ∧ t.status.busy = true ∧ t.status.done = false) := by
  rcases hostAccess_cases h with ⟨_, rfl⟩ | ⟨_, -, rfl⟩ | ⟨w, ha, rfl⟩ | ⟨w, -, rfl⟩ | ⟨_, -, -, rfl⟩ |
    ⟨_, _, -, -, -, rfl⟩ | ⟨_, _, -, -, -, rfl⟩
  case inr.inr.inl =>
    cases hb : s.status.busy with
    | true => exact .inl (by rw [s.writeCmd_busy w hb]; exact ⟨hb, rfl⟩)
    | false => exact .inr ⟨w, ha, rfl, by rw [s.writeCmd_idle w hb]; exact ⟨rfl, rfl⟩⟩
  case inr.inr.inr.inl => exact .inl ⟨s.status.hostWritten_busy w, s.status.hostWritten_done w⟩
  all_goals exact .inl ⟨rfl, rfl⟩

/-- R29, R30: BUSY and DONE stand, or a command is accepted, or the block is reset, or the command in flight
completes. -/
theorem step_flag_cases (h : step s = .next t) :
    (t.status.busy = s.status.busy ∧ t.status.done = s.status.done) ∨
    ((∃ w rest, s.turns = .host (.regWrite 0x00 w) :: rest) ∧
      s.status.busy = false ∧ t.status.busy = true ∧ t.status.done = false) ∨
    ((∃ rest, s.turns = .reset :: rest) ∧ t.status.busy = false ∧ t.status.done = false) ∨
    ((∃ rest, exec s.command { s with turns := rest } = .next t) ∧
      s.status.busy = true ∧ t.status.busy = false ∧ t.status.done = true) := by
  obtain ⟨rest, u, rfl, ⟨a, hturns, ha⟩ | ⟨hturns, rfl⟩ | ⟨-, ⟨-, rfl⟩ | ⟨hbusy, hx⟩⟩⟩ := step_cases h
  · rcases hostAccess_flag_cases ha with hsame | ⟨w, rfl, hflags⟩
    · exact .inl hsame
    · exact .inr (.inl ⟨⟨w, rest, hturns⟩, hflags⟩)
  · exact .inr (.inr (.inl ⟨⟨rest, hturns⟩, rfl, rfl⟩))
  · exact .inl ⟨rfl, rfl⟩
  · obtain ⟨_, _, hdone⟩ := exec_completed hx
    exact .inr (.inr (.inr ⟨⟨rest, hx⟩, hbusy, hdone.busy, hdone.done⟩))

end Flags

end Sys2Proof.Machine

/-! ### The obligations -/

namespace Sys2Proof

open Sys2Proof.Machine Sys2Proof.Claims

/-- Settles O49: a safe access gets through, and any other is out of range or a hazard. -/
theorem accessGetsThroughExactlyWhenSafe : Obligations.AccessGetsThroughExactlyWhenSafe := by
  intro a s
  have hfault (h : Access.safe s.cfg s.status.busy a = false) : ∃ f, hostAccess a s = .fault f := by
    by_cases hwf : a.wellFormed s.cfg = false
    · exact hostAccess_of_not_wellFormed hwf
    · obtain ⟨hbusy, hop⟩ := (Access.safe_eq_false_iff.mp h).resolve_left hwf
      exact hostAccess_of_hazard (Bool.eq_true_of_not_eq_false hwf) hbusy hop
  refine ⟨⟨fun ⟨t, ht⟩ => Bool.eq_true_of_not_eq_false fun h => ?_, hostAccess_of_safe⟩, hfault⟩
  obtain ⟨f, hf⟩ := hfault h
  cases ht.symm.trans hf

/-- Settles O57, event by event. -/
theorem busyAndDoneChangeOnlyAtTheirEvents : Obligations.BusyAndDoneChangeOnlyAtTheirEvents := by
  intro s t h
  rcases step_flag_cases h with ⟨hb, hd⟩ | ⟨haccept, hs, hb, hd⟩ | ⟨hreset, hb, hd⟩ | ⟨hcomplete, hs, hb, hd⟩
  · rw [hb, hd]
    exact ⟨fun h0 h1 => absurd (h0.symm.trans h1) nofun, fun h1 h0 => absurd (h1.symm.trans h0) nofun,
      fun h0 h1 => absurd (h0.symm.trans h1) nofun, fun h1 h0 => absurd (h1.symm.trans h0) nofun⟩
  · rw [hs, hb, hd]
    exact ⟨fun _ _ => ⟨haccept, rfl⟩, nofun, fun _ => nofun, fun _ _ => .inr ⟨haccept, rfl⟩⟩
  · rw [hb, hd]
    exact ⟨fun _ => nofun, fun _ _ => .inl hreset, fun _ => nofun, fun _ _ => .inl hreset⟩
  · rw [hs, hb, hd]
    exact ⟨nofun, fun _ _ => .inr ⟨rfl, hcomplete⟩, fun _ _ => ⟨rfl, rfl⟩, fun _ => nofun⟩

/-- Settles O58: a host access writes at most one cell, and an operation only the frame of an ENCODE. -/
theorem whoChangesTheMemories : Obligations.WhoChangesTheMemories := by
  intro s t h
  obtain ⟨rest, u, rfl, ⟨a, hturns, ha⟩ | ⟨hturns, -⟩ | ⟨-, ⟨-, rfl⟩ | ⟨hbusy, hx⟩⟩⟩ := step_cases h
  · have cell (sp : MemSpace) (x : Nat) : t.memRead sp x = s.memRead sp x ∨
        ∃ rest, s.turns = .host (writeAccess sp x (t.memRead sp x)) :: rest ∧ s.status.busy = false :=
      (hostAccess_memRead_cases ha x).imp_right fun ⟨hw, hidle⟩ => ⟨rest, hw ▸ hturns, hidle⟩
    exact .inr ⟨cell .pay, fun x => (cell .buf x).imp_right .inl⟩
  · exact .inl ⟨rest, hturns⟩
  · exact .inr ⟨fun _ => .inl rfl, fun _ => .inl rfl⟩
  · obtain ⟨_, _, hdone⟩ := exec_completed hx
    refine .inr ⟨fun x => .inl (hdone.kept.pay x), fun x => ?_⟩
    exact (bufAt_exec_cases hx x).imp_right fun ⟨hencode, herr, hlt⟩ =>
      .inr ⟨hbusy, s.command_encode_iff.mp hencode, herr, hdone.done, hlt⟩

end Sys2Proof
end

section
/-! PROOFS. Runs (20_memory.md section 5, 30_encoding.md R91, 70_reset_and_hazards.md section 4): steps put together,
the byte writes of a load, the polls of a WAIT, and the host accesses an operation in flight waits for. -/

namespace Sys2Proof.Machine

open Sys2Proof.Claims

/-! ### Steps put together -/

section Run

/-- A step that gets through, and the run goes on. -/
theorem run_succ {M : Host.Core} {s t : M.State} (h : M.step s = .next t) (k : Nat) : M.run (k + 1) s = M.run k t := by
  rw [Host.Core.run, h]

/-- A run that gets through, and the run goes on. -/
theorem run_add {M : Host.Core} {s t : M.State} {m : Nat} (h : M.run m s = .next t) (k : Nat) :
    M.run (m + k) s = M.run k t := by
  induction m generalizing s with
  | zero =>
    cases h
    rw [Nat.zero_add]
  | succ m ih =>
    cases hstep : M.step s with
    | next u =>
      rw [run_succ hstep] at h
      rw [Nat.add_right_comm, run_succ hstep, ih h]
    | fault f =>
      rw [Host.Core.run, hstep] at h
      cases h
    | refused r =>
      rw [Host.Core.run, hstep] at h
      cases h

variable {s t : State}

/-- The step of the block, and the run goes on. -/
theorem run_step (h : step s = .next t) (k : Nat) : core.run (k + 1) s = core.run k t :=
  run_succ (M := core) h k

/-- A host turn whose access gets through. -/
theorem step_host {a : Access} {rest : List Turn} (hturns : s.turns = .host a :: rest)
    (h : hostAccess a { s with turns := rest } = .next t) : step s = .next t :=
  (step_cons hturns).trans h

end Run

/-! ### Loads -/

section Loads

variable {s : State} {sp : MemSpace} {bs : List Byte} {l : List Turn}

/-- The bytes a memory has room for. -/
def capacity (c : Params) : MemSpace → Nat
  | .buf => c.packetMax.toNat
  | .pay => c.payBytes

/-- The bytes `bs` written to a memory at indices `i, i + 1, ...` in order. -/
def State.memWriteList (s : State) (sp : MemSpace) (i : Nat) (bs : List Byte) : State :=
  match sp with
  | .buf => { s with buf := s.buf.setList i bs }
  | .pay => { s with pay := s.pay.setList i bs }

/-- Read back, the bytes stand where they were written. -/
theorem State.memRead_memWriteList (s : State) (sp : MemSpace) {j : Nat} (hj : j < bs.length) :
    (s.memWriteList sp 0 bs).memRead sp j = bs[j] := by
  cases sp <;> simp [State.memWriteList, State.memRead, Memory.get?_setList, hj]

theorem hostAccess_writeAccess_idle {i : Nat} (hi : i < capacity s.cfg sp) (hidle : s.status.busy = false) (v : Byte) :
    hostAccess (writeAccess sp i v) s = .next ((s.memWrite sp i v).answered .none) := by
  cases sp with
  | buf => exact hostAccess_bufWrite_idle s v hi hidle
  | pay => exact hostAccess_payWrite_idle s v hi hidle

/-- R91: the byte writes of a load, on an idle block with room for them, one step each. -/
theorem run_byteWrites {i : Nat} (hidle : s.status.busy = false)
    (hturns : s.turns = byteWrites (writeAccess sp) i bs ++ l) (hroom : i + bs.length ≤ capacity s.cfg sp) :
    ∃ a, core.run bs.length s = .next { s.memWriteList sp i bs with turns := l, answer := a } := by
  induction bs generalizing i s with
  | nil =>
    have hsame : { s.memWriteList sp i [] with turns := l, answer := s.answer } = s := by
      cases sp <;> exact State.with_turns_self hturns
    exact ⟨s.answer, congrArg Host.Outcome.next hsame.symm⟩
  | cons b rest ih =>
    rw [List.length_cons, Nat.add_comm rest.length, ← Nat.add_assoc] at hroom
    have hi : i < capacity s.cfg sp := by omega
    have hstep := step_host hturns (hostAccess_writeAccess_idle
      (s := { s with turns := byteWrites (writeAccess sp) (i + 1) rest ++ l }) hi hidle b)
    rw [List.length_cons, run_step hstep]
    cases sp with
    | buf => exact ih hidle rfl hroom
    | pay => exact ih hidle rfl hroom

/-- One byte write more. -/
theorem byteWrites_append_singleton (op : Nat → Byte → Access) (i : Nat) (bs : List Byte) (b : Byte) :
    byteWrites op i (bs ++ [b]) = byteWrites op i bs ++ [.host (op (i + bs.length) b)] := by
  induction bs generalizing i with
  | nil => rfl
  | cons c rest ih =>
    rw [List.cons_append, byteWrites, byteWrites, ih, List.length_cons, List.cons_append, Nat.add_right_comm,
      Nat.add_assoc i]

/-- R91: LOADPAY writes its string and the terminator behind it. -/
theorem loadPay_turns (bs : List Byte) :
    HostLine.turns (.loadPay bs) = byteWrites (writeAccess .pay) 0 (bs ++ [0x00]) := by
  rw [byteWrites_append_singleton, Nat.zero_add]
  rfl

end Loads

/-! ### Polls -/

section Polls

variable {s : State}

/-- 10_state.md R44: a STATUS read answers BUSY exactly and changes nothing of the block; idle it makes no draw. -/
theorem hostAccess_poll (s : State) :
    ∃ d, hostAccess (.regRead 0x04) s = .next { s with draws := d, answer := .word (s.readWord .status) } ∧
      (s.status.busy = false → d = s.draws) := by
  cases hb : s.status.busy with
  | false =>
    refine ⟨s.draws, ?_, fun _ => rfl⟩
    rw [s.readWord_idle .status hb]
    exact hostAccess_read_idle s .status hb
  | true =>
    refine ⟨s.draws + 1, ?_, nofun⟩
    rw [s.readWord_busy .status hb]
    exact hostAccess_read_busy s .status hb

/-- R91: `k` polls leave the block as it is; the last answer is the old one or, after a poll, says what BUSY is. -/
theorem run_polls {k : Nat} {l : List Turn} (hturns : s.turns = List.replicate k (.host (.regRead 0x04)) ++ l) :
    ∃ d a, core.run k s = .next { s with turns := l, draws := d, answer := a } ∧
      (s.status.busy = false → d = s.draws) ∧
      (k = 0 ∨ ∃ v, a = .word v ∧ v.getLsbD 0 = s.status.busy) := by
  induction k generalizing s with
  | zero =>
    exact ⟨s.draws, s.answer, congrArg Host.Outcome.next (State.with_turns_self hturns).symm, fun _ => rfl, .inl rfl⟩
  | succ k ih =>
    obtain ⟨d, hread, hd⟩ := hostAccess_poll { s with turns := List.replicate k (.host (.regRead 0x04)) ++ l }
    obtain ⟨d', a, hrun, hd', ha⟩ := ih (s := { s with
      turns := List.replicate k (.host (.regRead 0x04)) ++ l, draws := d, answer := _ }) rfl
    have hbit := s.readWord_status_bits.1
    refine ⟨d', a, (run_step (step_host hturns hread) k).trans hrun, fun hb => (hd' hb).trans (hd hb), .inr ?_⟩
    rcases ha with rfl | hv
    · cases hrun
      exact ⟨_, rfl, hbit⟩
    · exact hv

/-- R91: a WAIT leaves the block `u` that the engine's turn makes of the polled one, and its last read answers the
STATUS of `u`. -/
theorem run_wait {u : State} {k : Nat} {rest : List Turn} (hturns : s.turns = HostLine.turns (.wait k) ++ rest)
    (hx : ∀ d l a, engineStep { s with draws := d, turns := l, answer := a } =
      .next { u with draws := d, turns := l, answer := a })
    (hidle : u.status.busy = false) :
    ∃ d, core.run (k + 2) s = .next { u with draws := d, turns := rest, answer := .word u.status.toWord } ∧
      (s.status.busy = false → d = s.draws) := by
  rw [HostLine.turns, List.append_assoc] at hturns
  obtain ⟨d, a, hpolls, hd, -⟩ := run_polls hturns
  have hengine := (step_engine (s := { s with
    draws := d, turns := .engine :: .host (.regRead 0x04) :: rest, answer := a }) rfl).trans (hx d _ a)
  have hread := hostAccess_read_idle { u with draws := d, turns := rest, answer := a } .status hidle
  exact ⟨d, (run_add hpolls 2).trans ((run_step hengine 1).trans (run_step (step_host rfl hread) 0)), hd⟩

end Polls

/-! ### An operation in flight and the host -/

section InFlight

variable {s t u : State}

/-- 70_reset_and_hazards.md R195: while BUSY = 1 an access that gets through changes OVR and the model's own fields
alone. -/
theorem hostAccess_busy {a : Access} (h : hostAccess a s = .next t) (hbusy : s.status.busy = true) :
    ∃ b d w, t = s.withHostFields b d s.turns w := by
  have notIdle (hidle : s.status.busy = false) : False := absurd (hbusy.symm.trans hidle) nofun
  rcases hostAccess_cases h with ⟨w, rfl⟩ | ⟨w, -, rfl⟩ | ⟨w, -, rfl⟩ | ⟨w, -, rfl⟩ | ⟨_, -, hidle, -⟩ |
    ⟨_, _, -, -, hidle, -⟩ | ⟨_, _, -, -, hidle, -⟩
  · exact ⟨s.status.ovr, s.draws, w, rfl⟩
  · exact ⟨s.status.ovr, s.draws + 1, w, rfl⟩
  · rw [s.writeCmd_busy w hbusy]
    exact ⟨true, s.draws, .none, rfl⟩
  · rw [Status.hostWritten_eq]
    exact ⟨_, s.draws, .none, rfl⟩
  · exact (notIdle hidle).elim
  · exact (notIdle hidle).elim
  · exact (notIdle hidle).elim

/-- 60_exceptions.md R165: an operation commutes with overwriting OVR, `draws`, `turns` and `answer`. -/
theorem exec_withHostFields {i : Instr} (h : exec i s = .next u) (b : Bool) (d : Nat) (l : List Turn) (a : Answer) :
    exec i (s.withHostFields b d l a) = .next (u.withHostFields b d l a) := by
  obtain ⟨m, e, r, hx⟩ := exec_determined i s
  cases (hx s rfl rfl rfl rfl rfl).symm.trans h
  exact hx _ rfl rfl rfl rfl rfl

/-- So it does with the model's own fields alone. -/
theorem exec_with_own_fields {i : Instr} (h : exec i s = .next u) (d : Nat) (l : List Turn) (a : Answer) :
    exec i { s with draws := d, turns := l, answer := a } = .next { u with draws := d, turns := l, answer := a } := by
  obtain ⟨_, _, hdone⟩ := exec_completed h
  refine (exec_withHostFields h s.status.ovr d l a).trans ?_
  rw [← hdone.kept.ovr]
  rfl

/-- As long as the host's accesses are safe they only put the completion off (70_reset_and_hazards.md section 4). -/
theorem run_inFlight (hbusy : s.status.busy = true) (hx : exec s.command s = .next u) (l : List Turn)
    (hsafe : ∀ x ∈ l, ∃ a, x = .host a ∧ Access.safe s.cfg true a = true) (b : Bool) (d : Nat) (w : Answer) :
    ∃ b' d' w', core.run (l.length + 1) (s.withHostFields b d l w) = .next (u.withHostFields b' d' [] w') := by
  induction l generalizing b d w with
  | nil =>
    have hstep : step (s.withHostFields b d [] w) = .next (u.withHostFields b d [] w) :=
      (step_nil rfl).trans ((engineStep_busy (s := s.withHostFields b d [] w) hbusy).trans
        (exec_withHostFields hx b d [] w))
    exact ⟨b, d, w, run_step hstep 0⟩
  | cons x rest ih =>
    obtain ⟨⟨a, rfl, ha⟩, hrest⟩ := List.forall_mem_cons.mp hsafe
    have hgo : Access.safe s.cfg s.status.busy a = true := hbusy.symm ▸ ha
    obtain ⟨t, ht⟩ := hostAccess_of_safe (s := s.withHostFields b d rest w) hgo
    obtain ⟨b', d', w', rfl⟩ := hostAccess_busy ht hbusy
    obtain ⟨b'', d'', w'', hrun⟩ := ih hrest b' d' w'
    exact ⟨b'', d'', w'', (run_step (step_host rfl ht) _).trans hrun⟩

end InFlight

end Sys2Proof.Machine

/-! ### The obligations -/

namespace Sys2Proof

open Sys2Proof.Machine Sys2Proof.Claims

/-- Settles O52: the byte writes leave their bytes; the last write of LOADPAY is the terminator, that of LOADBUF the
count. -/
theorem loadPseudoCommandsLoad : Obligations.LoadPseudoCommandsLoad := by
  refine ⟨fun s bs hidle hturns hwf => ?_, fun s bs hidle hturns hwf => ?_⟩
  · obtain ⟨hroom, hnonzero⟩ : bs.length < s.cfg.payBytes ∧ ∀ b ∈ bs, b ≠ 0 := by
      simpa [HostLine.wellFormed] using hwf
    rw [loadPay_turns] at hturns
    obtain ⟨a, hrun⟩ := run_byteWrites (sp := .pay) (l := []) hidle (hturns.trans (List.append_nil _).symm)
      (by simpa [capacity] using hroom)
    have cell {j : Nat} (hj : j < (bs ++ [0x00#8]).length) := s.memRead_memWriteList .pay hj
    have string {j : Nat} (hj : j < bs.length) :
        (s.memWriteList .pay 0 (bs ++ [0x00#8])).memRead .pay j = bs[j] :=
      (cell (by simp; omega)).trans (List.getElem_append_left hj)
    rw [List.length_append] at hrun
    refine ⟨_, hrun, rfl, ⟨(cell (by simp)).trans (by simp), fun j hj => ?_⟩, fun j hj => string hj⟩
    exact (string hj).trans_ne (hnonzero _ (List.getElem_mem hj))
  · have hroom : bs.length ≤ s.cfg.packetMax.toNat := of_decide_eq_true hwf
    obtain ⟨a, hrun⟩ := run_byteWrites (sp := .buf) (i := 0) hidle hturns (by simpa [capacity] using hroom)
    have hcount := hostAccess_write_rxlen_idle { s.memWriteList .buf 0 bs with turns := [], answer := a }
      (BitVec.ofNat 32 bs.length) hidle
    have hend := (run_add hrun 1).trans (run_step (step_host rfl hcount) 0)
    refine ⟨_, hend, rfl, ?_, fun j hj => s.memRead_memWriteList .buf hj⟩
    have hlt : bs.length < 2 ^ 32 := hroom.trans_lt s.cfg.packetMax.isLt
    refine (State.clampRxlen_toNat _ _).trans ?_
    rw [BitVec.toNat_ofNat, Nat.mod_eq_of_lt hlt]
    exact Nat.min_eq_left hroom

/-- Settles O59: the operation completes when the turns are used up, and reads none of what the host touched. -/
theorem operationInFlightCompletes : Obligations.OperationInFlightCompletes := by
  intro s u hbusy hsafe hx
  obtain ⟨b, d, w, hrun⟩ := run_inFlight hbusy hx s.turns hsafe s.status.ovr s.draws s.answer
  obtain ⟨_, _, hdone⟩ := exec_completed hx
  exact ⟨_, hrun, rfl, ⟨fun _ => List.not_mem_nil, hdone.busy⟩, hdone.done, rfl, rfl, fun _ => rfl, fun _ => rfl,
    hdone.kept.cmd, hdone.kept.rxlen⟩

/-- Settles O60: the polls leave the block as it is, the engine completes what is in flight, and the last read is
exact. -/
theorem waitAndClrOvr : Obligations.WaitAndClrOvr := by
  refine ⟨fun s rest hturns => ?_, fun s u k rest hbusy hturns hx => ⟨fun j hj => ?_, ?_⟩,
    fun s k rest hidle hturns => ?_⟩
  · refine step_host hturns ((hostAccess_write_status _ _).trans ?_)
    rw [Status.hostWritten_eq, show (0x00000004#32).getLsbD 2 = true from rfl, Bool.not_true, Bool.and_false]
    rfl
  · obtain ⟨m, rfl⟩ := Nat.exists_eq_add_of_le (Nat.succ_le_of_lt hj)
    rw [HostLine.turns, ← List.replicate_append_replicate, List.append_assoc, List.append_assoc] at hturns
    obtain ⟨d, a, hrun, -, ha⟩ := run_polls hturns
    obtain ⟨v, rfl, hv⟩ := ha.resolve_left (Nat.succ_ne_zero j)
    exact ⟨_, v, hrun, hbusy, rfl, hv.trans hbusy⟩
  · obtain ⟨_, _, hdone⟩ := exec_completed hx
    obtain ⟨d, hrun, -⟩ := run_wait hturns (fun d l a =>
      (engineStep_busy (s := { s with draws := d, turns := l, answer := a }) hbusy).trans
        (exec_with_own_fields hx d l a)) hdone.busy
    exact ⟨_, _, hrun, rfl, hdone.busy, hdone.done, (Status.toWord_busy _).trans hdone.busy,
      (Status.toWord_done _).trans hdone.done, Status.toWord_err _, fun hrest => ⟨hrest, hdone.busy⟩⟩
  · obtain ⟨d, hrun, hd⟩ := run_wait hturns (fun _ _ _ => engineStep_idle hidle) hidle
    cases hd hidle
    exact ⟨_, _, hrun, rfl, (Status.toWord_busy _).trans hidle⟩

end Sys2Proof
end
